-- ==== Sys2Proof/Word.lean ====
section
/-!
DEFINITION. The words of the G40: bytes, 32-bit ticks, tags and bin ids.
-/

namespace Sys2Proof

/-- One byte of host memory or of a fleet link frame. -/
abbrev Byte := BitVec 8

/-- A tick value, a 32-bit count that wraps (R115). -/
abbrev Tick := BitVec 32

/-- A request tag, the host's own 32-bit value (R85). -/
abbrev Tag := BitVec 32

/-- A bin id, a nonzero 32-bit value (00_scope, Identifiers). -/
abbrev BinId := BitVec 32

end Sys2Proof
end

