-- ==== Sys2Proof/Config.lean ====
section
/-!
DEFINITION. What the part fixes: table sizes, register offsets, the identity, the marker and the frame codes
(13_record_layouts.md). No result of this part is left open by its manual, so there is no free value here.
-/

namespace Sys2Proof.Config

/-- The number of relay stack records (R1). -/
def stackCount : Nat := 64
/-- The most relays at once (R84). -/
def relayMax : Nat := 128
/-- The most robots declared at once (R100). -/
def robotMax : Nat := 96
/-- The number of sense lines (R148). -/
def lineCount : Nat := 32
/-- The number of districts (00_scope, Identifiers). -/
def districtCount : Nat := 8
/-- The most GATE lines (R155). -/
def gateMax : Nat := 4

/-- The contents of IDENT (R170, Registers). -/
def ident : BitVec 32 := 0x00470001#32
/-- The marker of the exchange header (R181). -/
def marker : Nat := 0x47405258
/-- Bytes of the header, of a slot and of a notice entry (R181). -/
def headerBytes : Nat := 64
@[inherit_doc headerBytes] def slotBytes : Nat := 160
@[inherit_doc headerBytes] def noticeBytes : Nat := 32
/-- The link value END (Request slot layout). -/
def linkEnd : Nat := 0xFFFF
/-- The start byte of a frame (Fleet link frames). -/
def startByte : Byte := 0x7E#8

/-- What a byte of host memory reads as when nothing has written it.
DESIGN CHOICE (log 2, unsafe): the manual says nothing of it. -/
def unwrittenByte : Byte := 0#8

end Sys2Proof.Config
end

