-- ==== Sys2Proof/Syntax.lean ====
section
/-!
DEFINITION. The commands of the G40: one constructor for each row of spec/opcode_table.json, with the row's operands.
-/

namespace Sys2Proof

/-- One byte that the host writes into its own memory, and the exchange access of the running command, counted from 0,
before which the write lands (R185: a host write is seen if it lands before the read). -/
structure HostWrite where
  before : Nat
  addr : Nat
  byte : Byte
  deriving DecidableEq, Repr

/-- The two resets of the part (R173). -/
inductive ResetKind where
  | powerOn
  | soft
  deriving DecidableEq, Repr

/-- A reset that arrives while a command runs: which one, and the number of the command's exchange accesses that have begun
when it arrives. These are completed, and none follows them (R173, log 52). -/
structure ArrivingReset where
  kind : ResetKind
  after : Nat
  deriving DecidableEq, Repr

/-- What the host and the bus do while a command runs (log 3): the host's writes to host memory, oldest first; the
exchange access of the command that meets a bus error, if one does (R172); which bytes of a write cut by that
error reach memory (R185, log 4); and the reset that arrives, if one does (R173, log 52). -/
structure Bus where
  writes : List HostWrite := []
  errorAt : Option Nat := none
  landed : List Bool := []
  reset : Option ArrivingReset := none
  deriving DecidableEq, Repr

/-- The two halves of a hop (R39). -/
inductive Side where
  | give
  | take
  deriving DecidableEq, Repr

/-- A command to the G40, one constructor for each row of the table of operations and events. -/
inductive Instr where
  /-- Power is applied (R173). -/
  | powerOnReset
  /-- A 1 written to CONTROL.RESET (R173). -/
  | reset
  /-- RUN set in CONTROL (R161). -/
  | runSet (bus : Bus)
  /-- RUN cleared in CONTROL (R161). -/
  | runClear
  /-- A 1 written to CONTROL.HOLD (R153). -/
  | hold (bus : Bus)
  /-- A 1 written to CONTROL.RESUME (R153). -/
  | resume (bus : Bus)
  /-- A write to CONTROL.CLEAR_MODE (R171): true is write-one-clear. -/
  | clearMode (mode : Bool)
  /-- A read of EVENTS (R171). -/
  | eventsRead
  /-- A write to EVENTS (R171). -/
  | eventsWrite (value : BitVec 32)
  /-- A write to EVENT_MASK (R171). -/
  | eventMaskWrite (value : BitVec 32)
  /-- Any write to NUDGE (R163). -/
  | nudge (value : BitVec 32) (bus : Bus)
  /-- A write to CHAIN_START, the slot index in bits 0..15 (R165). -/
  | chainStart (value : BitVec 32) (bus : Bus)
  /-- A write to EXCHANGE_BASE (R170). -/
  | exchangeBaseWrite (value : BitVec 64)
  /-- A write of a whole register at an offset; places without behaviour are not acted on (R184, R170). -/
  | registerWrite (offset : Nat) (value : BitVec 64) (bus : Bus)
  /-- The end of a tick period (R115). -/
  | tick
  /-- The poll that the poll count has brought about (R164). -/
  | chainPoll (bus : Bus)
  /-- A warn expiry of a side's step timer is taken, for any phase but BURY (R123). -/
  | stepWarn (tag : Tag) (side : Side) (bus : Bus)
  /-- A BURY warn expiry is taken (R68). -/
  | buryWarn (tag : Tag) (bus : Bus)
  /-- A PLACE limit expiry is taken (R59). -/
  | placeLimit (tag : Tag) (bus : Bus)
  /-- A GIVE_APPROACH limit expiry is taken (R59). -/
  | giveApproachLimit (tag : Tag) (bus : Bus)
  /-- A GIVE_WAIT limit expiry of either side is taken (R59, R76, R78). -/
  | giveWaitLimit (tag : Tag) (side : Side) (bus : Bus)
  /-- A GIVE_ACT limit expiry of either side is taken (R60, R79). -/
  | giveActLimit (tag : Tag) (side : Side) (bus : Bus)
  /-- A TAKE_APPROACH limit expiry is taken (R61). -/
  | takeApproachLimit (tag : Tag) (bus : Bus)
  /-- A REST limit expiry is taken (R61). -/
  | restLimit (tag : Tag) (bus : Bus)
  /-- A TAKE_ACT limit expiry is taken (R60, R79). -/
  | takeActLimit (tag : Tag) (bus : Bus)
  /-- A BURY limit expiry is taken (R83). -/
  | buryLimit (tag : Tag) (bus : Bus)
  /-- A QUERY limit expiry is taken (R136). -/
  | queryLimit (tag : Tag) (bus : Bus)
  /-- An exposure clock's expiry is taken (R126). -/
  | exposureExpiry (tag : Tag) (bus : Bus)
  /-- The silence limit's expiry is taken (R146). -/
  | silenceLimit (bus : Bus)
  /-- A line's candidate has lasted its check time (R150). -/
  | debounceExpiry (line : Nat) (bus : Bus)
  /-- The frame in progress, with these bytes after those the receiver holds, is abandoned (R138). -/
  | frameAbandon (bytes : List Byte) (bus : Bus)
  /-- A line's raw input changes; true is ASSERTED (R149). -/
  | rawLineChange (line : Nat) (level : Bool) (bus : Bus)
  /-- Bytes arrive that end a frame which fails its checks (R138). -/
  | badFrame (bytes : List Byte) (bus : Bus)
  /-- A valid REPORT frame of kind ARRIVED (R50). -/
  | arrived (robot seq x y : Byte) (bus : Bus)
  /-- A valid REPORT frame of kind REFUSED (R49). -/
  | refused (robot seq : Byte) (bus : Bus)
  /-- A valid REPORT frame of kind SET_DONE with the sensed level (R48). -/
  | setDone (robot seq level : Byte) (bus : Bus)
  /-- A valid REPORT frame of kind LIFT_DONE with the sensed level and the load field (R53). -/
  | liftDone (robot seq level : Byte) (load : BitVec 16) (bus : Bus)
  /-- A valid POSITION frame (R145). -/
  | position (robot x y : Byte) (bus : Bus)
  /-- A valid FAULT frame (R145). -/
  | fault (robot : Byte) (bus : Bus)
  /-- A valid BEACON frame (R146). -/
  | beacon (bus : Bus)
  /-- The transmitter starts the frame at the head of the queue (R142). -/
  | transmitStart
  /-- The last CRC byte of the frame being sent has left (R142). -/
  | frameSent
  deriving DecidableEq, Repr

end Sys2Proof
end

