-- ==== Sys2Proof/WellFormed.lean ====
section
/-!
DEFINITION. Which commands name something that exists: a sense line of the part (R148), a register offset that is a
multiple of 4 (Registers), and a bad frame that has at least one byte (R138).
-/

namespace Sys2Proof

/-- The checks a command must pass. -/
def Instr.wellFormed : Instr → Bool
  | .debounceExpiry line _ => line < Config.lineCount
  | .rawLineChange line _ _ => line < Config.lineCount
  | .registerWrite offset _ _ => offset % 4 == 0
  | .badFrame bytes _ => !bytes.isEmpty
  | .powerOnReset | .reset | .runSet _ | .runClear | .hold _ | .resume _ | .clearMode _ | .eventsRead
  | .eventsWrite _ | .eventMaskWrite _ | .nudge _ _ | .chainStart _ _ | .exchangeBaseWrite _ | .tick
  | .chainPoll _ | .stepWarn _ _ _ | .buryWarn _ _ | .placeLimit _ _ | .giveApproachLimit _ _
  | .giveWaitLimit _ _ _ | .giveActLimit _ _ _ | .takeApproachLimit _ _ | .restLimit _ _ | .takeActLimit _ _
  | .buryLimit _ _ | .queryLimit _ _ | .exposureExpiry _ _ | .silenceLimit _ | .frameAbandon _ _
  | .arrived _ _ _ _ _ | .refused _ _ _ | .setDone _ _ _ _ | .liftDone _ _ _ _ _ | .position _ _ _ _
  | .fault _ _ | .beacon _ | .transmitStart | .frameSent => true

end Sys2Proof
end

