-- ==== Sys2Proof/Decode.lean ====
section
/-!
DEFINITION. What arrives as bits. No row of the table gives bits, so no word spells a command; the frames of the fleet
link are decoded here: the CRC (R139), the inbound frames and the receiver's hunt for them (R138).
-/

namespace Sys2Proof

/-- The command that a word spells by the table's bits: none, because no row of the table gives bits (log 40). -/
def decodeTableWord (_nbits _w : Nat) : Option Instr := none

/-- One place of the CRC: the register moves up by one and takes the polynomial x^16 + x^12 + x^5 + 1 when a set
place leaves it (R139). -/
def crcPlace (r : BitVec 16) : BitVec 16 :=
  if r.msb then (r <<< 1) ^^^ 0x1021#16 else r <<< 1

/-- One byte enters the CRC, highest place first (R139). -/
def crcByte (r : BitVec 16) (b : Byte) : BitVec 16 :=
  crcPlace (crcPlace (crcPlace (crcPlace (crcPlace (crcPlace (crcPlace (crcPlace
    (r ^^^ (b.setWidth 16 <<< 8)))))))))

/-- The CRC-16 of a frame's length, type and body bytes, from 65,535, neither reflected nor inverted (R139). -/
def crc16 (bytes : List Byte) : BitVec 16 := bytes.foldl crcByte 0xFFFF#16

/-- The two CRC bytes, the more significant first (R139). -/
def crcBytes (bytes : List Byte) : List Byte :=
  [((crc16 bytes) >>> 8).setWidth 8, (crc16 bytes).setWidth 8]

/-- A frame on the line, from its start byte to its CRC, around a type byte and a body (09, Frames on the line). -/
def frameAround (typed : List Byte) : List Byte :=
  Config.startByte :: (BitVec.ofNat 8 typed.length :: typed) ++ crcBytes (BitVec.ofNat 8 typed.length :: typed)

/-- What a REPORT says: its kind and the kind's data (09, Frames on the line). -/
inductive Report where
  | arrived (x y : Byte)
  | refused
  | setDone (level : Byte)
  | liftDone (level : Byte) (load : BitVec 16)
  deriving DecidableEq, Repr

/-- An inbound frame (09, Frames on the line). -/
inductive InFrame where
  | report (robot seq : Byte) (report : Report)
  | position (robot x y : Byte)
  | fault (robot : Byte)
  | beacon
  deriving DecidableEq, Repr

/-- A 16-bit field of the fleet link, most significant byte first (Record Layouts). -/
def linkWord16 (hi lo : Byte) : BitVec 16 := (hi.setWidth 16 <<< 8) ||| lo.setWidth 16

/-- The inbound frame that a type byte and body spell, when the type is inbound, the size is its type's and a REPORT's
kind is one of the four (R138). The reserved byte and unused data bytes are not read (R186). -/
def InFrame.ofTyped : List Byte → Option InFrame
  | [0x81#8, robot, seq, kind, _, d0, d1, d2, d3] =>
    if kind = 1#8 then some (.report robot seq (.arrived d0 d1))
    else if kind = 2#8 then some (.report robot seq .refused)
    else if kind = 3#8 then some (.report robot seq (.setDone d0))
    else if kind = 4#8 then some (.report robot seq (.liftDone d0 (linkWord16 d2 d3)))
    else none
  | [0x82#8, robot, x, y] => some (.position robot x y)
  | [0x83#8, robot] => some (.fault robot)
  | [0x84#8] => some .beacon
  | _ => none

/-- The kind byte of a REPORT (09, Frames on the line). -/
def Report.kind : Report → Byte
  | .arrived _ _ => 1#8
  | .refused => 2#8
  | .setDone _ => 3#8
  | .liftDone _ _ => 4#8

/-- The four data bytes of a REPORT, unused ones 0 (R186); a load field goes most significant byte first. -/
def Report.data : Report → List Byte
  | .arrived x y => [x, y, 0#8, 0#8]
  | .refused => [0#8, 0#8, 0#8, 0#8]
  | .setDone level => [level, 0#8, 0#8, 0#8]
  | .liftDone level load => [level, 0#8, (load >>> 8).setWidth 8, load.setWidth 8]

/-- The type and body bytes with which a robot sends an inbound frame (09, Frames on the line). -/
def InFrame.typed : InFrame → List Byte
  | .report robot seq r => [0x81#8, robot, seq, r.kind, 0#8] ++ r.data
  | .position robot x y => [0x82#8, robot, x, y]
  | .fault robot => [0x83#8, robot]
  | .beacon => [0x84#8]

/-- What stands after a start byte: too few bytes yet, a bad frame, or a valid frame and the bytes behind it (R138). -/
inductive Front where
  | short
  | bad
  | valid (frame : InFrame) (rest : List Byte)
  deriving DecidableEq, Repr

/-- The receiver's reading of the bytes behind a start byte (R138): a length in 1..32, that many bytes, two CRC bytes;
valid when the CRC, the type and the size agree. -/
def Front.ofBytes : List Byte → Front
  | [] => .short
  | len :: more =>
    if len.toNat < 1 ∨ 32 < len.toNat then .bad
    else if more.length < len.toNat + 2 then .short
    else if crcBytes (len :: more.take len.toNat) = (more.drop len.toNat).take 2 then
      match InFrame.ofTyped (more.take len.toNat) with
      | some f => .valid f (more.drop (len.toNat + 2))
      | none => .bad
    else .bad

/-- The receiver over a run of bytes (R138): hunting passes over every byte until a start byte; a bad frame returns it
to hunting at the byte after that frame's start byte. Answers the valid frames in order and the bytes of the frame
still in progress. The first argument bounds the bytes passed; `receive` gives enough. -/
def huntFrames : Nat → List Byte → List InFrame × List Byte
  | 0, buf => ([], buf)
  | _ + 1, [] => ([], [])
  | n + 1, b :: rest =>
    if b = Config.startByte then
      match Front.ofBytes rest with
      | .short => ([], b :: rest)
      | .bad => huntFrames n rest
      | .valid f more => (f :: (huntFrames n more).1, (huntFrames n more).2)
    else huntFrames n rest

/-- The receiver over a run of bytes, from hunting. -/
def receive (buf : List Byte) : List InFrame × List Byte := huntFrames (buf.length + 1) buf

end Sys2Proof
end

