-- ==== Sys2Proof/Machine/State.lean ====
section
/-!
DEFINITION. The state of the G40 as plain data: every record, list, queue, counter, mode and register the spec gives
it, the host memory it reaches as a bus master, and the queue of waiting commands. INVENTORY.md lists each field with
its rule and its reset value.
-/

namespace Sys2Proof.Machine

/-- Why a command stops the model. -/
inductive Fault where
  /-- Raised by RAW_LINE_CHANGE and DEBOUNCE_EXPIRY for a line above 31: the part has lines 0..31 (R148). Safe. -/
  | noSuchLine
  deriving DecidableEq, Repr

/-- Why a command has no meaning here. -/
inductive Refusal where
  /-- Raised by the dispatch for a command whose meaning is not written; none at present. Safe. -/
  | notModelled (mnemonic : String)
  deriving DecidableEq, Repr

/-- The device state (R161). -/
inductive DeviceState where
  | idle | running | stopped | broken | exchangeFault
  deriving DecidableEq, Repr

/-- The temperature scale (00_scope), for a bin's class and a stack's zone. -/
inductive Temp where
  | ambient | chilled | frozen
  deriving DecidableEq, Repr

/-- The state of a stack record (R2). -/
inductive StackState where
  | undeclared | active | suspect | retired
  deriving DecidableEq, Repr

/-- The two sides of a stack (R1). -/
inductive StackSide where
  | a | b
  deriving DecidableEq, Repr

/-- A bin in the column (R5). -/
structure RestEntry where
  bin : BinId
  owner : Option Tag
  bound : Option StackSide
  deriving DecidableEq, Repr

/-- A reserved position: a bin reservation (R6) or a blank hold (R7). -/
inductive PendEntry where
  | bin (bin : BinId) (tag : Option Tag) (district : Option Nat)
  | hold (tag : Option Tag) (robot : Nat)
  deriving DecidableEq, Repr

/-- What a robot does with access (R11). -/
inductive Purpose where
  | give | take | shuffleLift | shuffleSet
  deriving DecidableEq, Repr

/-- A robot holding or waiting for access, with its purpose, relay and bin (R11, R12). -/
structure Access where
  robot : Nat
  purpose : Purpose
  tag : Tag
  bin : BinId
  deriving DecidableEq, Repr

/-- A relay stack record (R1 to R12). -/
structure StackRec where
  x : Nat := 0
  y : Nat := 0
  sideA : Nat := 0
  sideB : Nat := 0
  capacity : Nat := 0
  zone : Temp := .ambient
  state : StackState := .undeclared
  senseLine : Option Nat := none
  blocked : Bool := false
  resting : List RestEntry := []
  pend : List PendEntry := []
  holder : Option Access := none
  waits : List Access := []
  deriving DecidableEq, Repr

/-- The nine phases (R118). -/
inductive Phase where
  | place | giveApproach | giveWait | giveAct | takeApproach | rest | takeAct | bury | query
  deriving DecidableEq, Repr

/-- A running or ended timing of a side (R119): `running` until its limit expires (R120); `warnDue` and `limitDue` say
that the expiry has arisen and is not yet taken (R121). -/
structure Timer where
  phase : Phase
  count : Nat
  warn : Nat
  limit : Nat
  warned : Bool
  running : Bool
  warnDue : Bool
  limitDue : Bool
  deriving DecidableEq, Repr

/-- The states of a give side (R39). -/
inductive GiveState where
  | placing | approach | wait | setting | done
  deriving DecidableEq, Repr

/-- The states of a take side (R39). -/
inductive TakeState where
  | unassigned | idle | approach | ready | wait | buried | lifting | query | shufLift | shufWait | shufSet | done
  deriving DecidableEq, Repr

/-- The give side of a relay's current hop (R39) with its step timer (R119). -/
structure GiveSide where
  state : GiveState
  robot : Option Nat
  stepStack : Option Nat
  timer : Option Timer
  deriving DecidableEq, Repr

/-- The take side of a relay's current hop (R39) with its step timer (R119). -/
structure TakeSide where
  state : TakeState
  robot : Option Nat
  stepStack : Option Nat
  timer : Option Timer
  deriving DecidableEq, Repr

/-- The shuffle part of a relay whose taker digs (R67). -/
structure Shuffle where
  movedBin : BinId
  movedRelay : Option Tag
  boundDistrict : Option Nat
  source : Nat
  target : Option Nat
  excluded : Option Nat
  setbacks : Nat
  returning : Bool
  deriving DecidableEq, Repr

/-- The exposure clock of a tracked relay (R124): `opened` is the start of an open interval; `due` says that the expiry
has arisen and is not yet taken (R126). -/
structure Clock where
  used : Nat
  opened : Option Tick
  expired : Bool
  due : Bool
  deriving DecidableEq, Repr

/-- Where an order takes its bin from (R85). -/
inductive Origin where
  | robot (id : Nat)
  | stack (id : Nat)
  deriving DecidableEq, Repr

/-- The sticky flags of a relay (R86). -/
structure Sticky where
  late : Bool := false
  exposed : Bool := false
  loadFlag : Bool := false
  overRange : Bool := false
  shuffled : Bool := false
  deriving DecidableEq, Repr

/-- The outcome and refusal codes (Outcome fields). -/
inductive Code where
  | done | delivered | withdrawn | noRoom | accessTimeout | giveTimeout | takeTimeout | giveFailed | takeFailed
  | restTimeout | buried | exposed | loadRejected | robotLost | stackLost
  | kind | field | unknown | busy | full | duplicate
  deriving DecidableEq, Repr

/-- A relay record: the order fields of R85, the hop fields of R39, the shuffle part (R67) and the clock (R124). -/
structure Relay where
  tag : Tag
  slot : Nat
  bin : BinId
  cls : Temp
  budget : Nat
  due : Tick
  reference : Option Nat
  timingSet : Nat
  strictLoad : Bool
  allowShuffle : Bool
  abortOnExposure : Bool
  path : List Nat
  takers : List (Option Nat)
  origin : Origin
  flags : Sticky
  carried : Bool
  lastHolder : Option Nat
  hop : Nat
  give : GiveSide
  take : TakeSide
  binding : Option Nat
  refused : Option Nat
  giveRefusals : Nat
  liftRefusals : Nat
  endPending : Option Code
  clock : Option Clock
  shuffle : Option Shuffle
  deriving DecidableEq, Repr

/-- The states of a robot context (R101). -/
inductive RobotState where
  | free | standby | lent | acting | faulted
  deriving DecidableEq, Repr

/-- The lent-to field (R100). -/
inductive LentTo where
  | none | standby | relay (tag : Tag)
  deriving DecidableEq, Repr

/-- The load formats (R129). -/
inductive LoadFormat where
  | right | left
  deriving DecidableEq, Repr

/-- The step kinds that open a step (R43). -/
inductive StepKind where
  | approach | set | lift
  deriving DecidableEq, Repr

/-- An open step: its number, kind and contents (R100); level and bin are 0 for APPROACH. -/
structure Step where
  seq : Byte
  kind : StepKind
  x : Nat
  y : Nat
  level : Nat
  bin : BinId
  deriving DecidableEq, Repr

/-- A robot context (R100). -/
structure Robot where
  id : Nat
  district : Nat
  offset : Nat
  gain : Nat
  format : LoadFormat
  state : RobotState
  lentTo : LentTo
  heldBin : Option BinId
  cell : Option (Nat × Nat)
  step : Option Step
  nextSeq : Byte
  accessHeld : Option Nat
  deriving DecidableEq, Repr

/-- Warn and limit of one phase (R117). -/
structure PhaseTiming where
  warn : Nat
  limit : Nat
  deriving DecidableEq, Repr

/-- The tuning settings (R179); a timing set lists its nine phases in phase-code order. -/
structure Tuning where
  wd : Nat
  wb : Nat
  wf : Nat
  wz : Nat
  tolAbs : Nat
  tolRel : Nat
  silenceLimit : Nat
  timing : List (List PhaseTiming)
  deriving DecidableEq, Repr

/-- An outbound frame (R141). -/
inductive OutFrame where
  | approach (robot : Nat) (seq : Byte) (x y : Nat)
  | set (robot : Nat) (seq : Byte) (x y level : Nat) (bin : BinId)
  | lift (robot : Nat) (seq : Byte) (x y level : Nat) (bin : BinId)
  | release (robot : Nat)
  deriving DecidableEq, Repr

/-- The function of a sense line (R148). -/
inductive LineFn where
  | off
  | overfill (stack : Nat)
  | gate
  deriving DecidableEq, Repr

/-- The edge setting of a sense line (R148). -/
inductive Edge where
  | none | rise | fall | both
  deriving DecidableEq, Repr

/-- A candidate level with its count (R148); `due` says that the count has reached the check time and the change is not
yet taken (R149, R150). -/
structure Candidate where
  level : Bool
  count : Nat
  due : Bool
  deriving DecidableEq, Repr

/-- A sense line (R148); levels are true when ASSERTED. -/
structure Line where
  fn : LineFn := .off
  check : Nat := 0
  edge : Edge := .none
  raw : Bool := false
  level : Bool := false
  candidate : Option Candidate := none
  deriving DecidableEq, Repr

/-- The chain cursor (R164). -/
inductive Cursor where
  | before (slot : Nat)
  | anchor (slot : Nat)
  deriving DecidableEq, Repr

/-- The header values kept from a start (R158), with the write index and the kept take index (R160). -/
structure Kept where
  slotCount : Nat
  slotBase : Nat
  noticeCount : Nat
  ringBase : Nat
  pollInterval : Nat
  firstSlot : Nat
  writeIndex : Nat
  takeIndex : Nat
  deriving DecidableEq, Repr

/-- The whole state of the machine. -/
structure State where
  /-- The 64 relay stack records (R1). -/
  stackRecs : List StackRec
  /-- The placement wait list (R34). -/
  placeWait : List Tag
  /-- The relay table in hop-start order (R84). -/
  relays : List Relay
  /-- The robot contexts (R100), in ascending order of id. -/
  robots : List Robot
  /-- The standby queues of districts 1..8 (R106). -/
  standby : List (List Nat)
  /-- The tick counter (R115). -/
  tick : Tick
  /-- The tick period in milliseconds (R115). -/
  tickPeriod : Option Nat
  /-- The tuning settings (R179). -/
  tuning : Tuning
  /-- The link state, true when UP (R146). -/
  linkUp : Bool
  /-- The silence count (R146). -/
  silence : Nat
  /-- The silence limit has been reached and the change to DOWN is not yet taken (log 7). -/
  silenceDue : Bool
  /-- The outbound queue (R141). -/
  outq : List OutFrame
  /-- The bytes of the frame at the head of the queue while it is being sent (R142). -/
  tx : Option (List Byte)
  /-- The bytes of the inbound frame in progress, from its start byte on; empty when hunting (R138). -/
  rx : List Byte
  /-- The 32 sense lines (R148). -/
  lines : List Line
  /-- Service hold, true when ON (R152). -/
  hold : Bool
  /-- The device state (R161). -/
  device : DeviceState
  /-- CONTROL.RUN (R170). -/
  run : Bool
  /-- CONTROL.CLEAR_MODE, true for write-one-clear (R171). -/
  clearMode : Bool
  /-- EVENTS (R171). -/
  events : BitVec 32
  /-- EVENT_MASK (R171). -/
  eventMask : BitVec 32
  /-- EXCHANGE_BASE (R170). -/
  exchangeBase : BitVec 64
  /-- What is kept from the last start (R158, R160). -/
  kept : Option Kept
  /-- The chain cursor (R164). -/
  cursor : Option Cursor
  /-- The poll count (R163). -/
  pollCount : Nat
  /-- The poll count has reached the interval and the poll is not yet taken (log 6). -/
  pollDue : Bool
  /-- The gap flag, with the gap's start tick while it is set (R168). -/
  gap : Option Tick
  /-- Host memory, in the canonical form of `Memory.wf`. -/
  mem : List Host.Cell
  /-- The model's own: the value that the last read of EVENTS returned (log 10). -/
  readData : BitVec 32
  /-- The model's own: what the host and the bus do in the running command (log 3). -/
  bus : Bus
  /-- The model's own: the exchange accesses made so far in the running command (log 3). -/
  busCount : Nat
  /-- The model's own: exposure expiries handed over in the running rule, acted on when it has finished (R126). -/
  deferred : List Tag
  /-- The commands that wait, first in, first out (log 1). -/
  pending : List Instr
  deriving DecidableEq, Repr

/-- One timing set after either reset (R180). -/
def resetTimingSet : List PhaseTiming :=
  [⟨1000, 6000⟩, ⟨1500, 6000⟩, ⟨1000, 6000⟩, ⟨300, 1200⟩, ⟨1500, 6000⟩, ⟨2000, 12000⟩, ⟨300, 1200⟩, ⟨400, 8000⟩,
    ⟨3000, 0⟩]

/-- The tuning settings after either reset (R180). -/
def resetTuning : Tuning :=
  { wd := 1, wb := 4, wf := 8, wz := 128, tolAbs := 250, tolRel := 32, silenceLimit := 50,
    timing := List.replicate 4 resetTimingSet }

/-- The machine right after a power-on reset, with host memory that nothing has written, every raw line CLEAR (log 9)
and no command waiting. -/
def State.reset : State :=
  { stackRecs := List.replicate Config.stackCount ({} : StackRec)
    placeWait := []
    relays := []
    robots := []
    standby := List.replicate Config.districtCount []
    tick := 0#32
    tickPeriod := none
    tuning := resetTuning
    linkUp := false
    silence := 0
    silenceDue := false
    outq := []
    tx := none
    rx := []
    lines := List.replicate Config.lineCount ({} : Line)
    hold := false
    device := .idle
    run := false
    clearMode := false
    events := 0#32
    eventMask := 0#32
    exchangeBase := 0#64
    kept := none
    cursor := none
    pollCount := 0
    pollDue := false
    gap := none
    mem := []
    readData := 0#32
    bus := {}
    busCount := 0
    deferred := []
    pending := [] }

end Sys2Proof.Machine
end

