-- ==== Sys2Proof/Machine/Flags.lean ====
section
/-!
DEFINITION. The numeric codes of Record Layouts, the event bits and the interrupt line (R171), the outcome flags (R86),
and the registers as the host reads them (R170, R184).
-/

namespace Sys2Proof.Machine

/-! ## Events -/

/-- The events of EVENTS (R171). -/
inductive Event where
  | notice | ringFull | chain | hold | link | startFail | memory
  deriving DecidableEq, Repr

/-- The bit of an event (Registers, EVENTS). -/
def Event.bit : Event → BitVec 32
  | .notice => 0x01#32
  | .ringFull => 0x02#32
  | .chain => 0x04#32
  | .hold => 0x08#32
  | .link => 0x10#32
  | .startFail => 0x20#32
  | .memory => 0x40#32

/-- The bits that EVENTS and EVENT_MASK name; the others read 0 and are not acted on (R184). -/
def eventPlaces : BitVec 32 := 0x7F#32

/-- An event's cause sets its bit, which stays set until the host clears it (R171). -/
def setEvent (e : Event) (s : State) : State := { s with events := s.events ||| e.bit }

/-- The interrupt line: asserted while EVENTS and EVENT_MASK have a set bit in common (R171). -/
def interruptLine (s : State) : Bool := s.events &&& s.eventMask != 0#32

/-! ## Codes -/

/-- Class and zone codes (Enumerations); a zone is warmer than a class when its value is lower (00_scope). -/
def Temp.code : Temp → Nat
  | .ambient => 0
  | .chilled => 1
  | .frozen => 2

/-- The class or zone of a code (R183). -/
def Temp.ofCode : Nat → Option Temp
  | 0 => some .ambient
  | 1 => some .chilled
  | 2 => some .frozen
  | _ => none

/-- A stack's zone is warmer than a bin's class (00_scope, Temperature scale). -/
def Temp.warmer (zone cls : Temp) : Bool := zone.code < cls.code

/-- Phase codes (Enumerations). -/
def Phase.code : Phase → Nat
  | .place => 0
  | .giveApproach => 1
  | .giveWait => 2
  | .giveAct => 3
  | .takeApproach => 4
  | .rest => 5
  | .takeAct => 6
  | .bury => 7
  | .query => 8

/-- Outcome and refusal codes (Outcome fields). -/
def Code.value : Code → Nat
  | .done => 0
  | .delivered => 1
  | .withdrawn => 2
  | .noRoom => 3
  | .accessTimeout => 4
  | .giveTimeout => 5
  | .takeTimeout => 6
  | .giveFailed => 7
  | .takeFailed => 8
  | .restTimeout => 9
  | .buried => 10
  | .exposed => 11
  | .loadRejected => 12
  | .robotLost => 13
  | .stackLost => 14
  | .kind => 32
  | .field => 33
  | .unknown => 34
  | .busy => 35
  | .full => 36
  | .duplicate => 37

/-- Device state codes (Registers, STATE). -/
def DeviceState.code : DeviceState → Nat
  | .idle => 0
  | .running => 1
  | .stopped => 2
  | .broken => 3
  | .exchangeFault => 4

/-- The flags byte of an outcome (Outcome fields). -/
def Sticky.byte (f : Sticky) : Nat :=
  f.late.toNat + 2 * f.exposed.toNat + 4 * f.loadFlag.toNat + 8 * f.overRange.toNat + 16 * f.shuffled.toNat

/-! ## Registers as the host reads them -/

/-- CONTROL as it reads: RUN in bit 0, CLEAR_MODE in bit 4; RESET, HOLD and RESUME read 0 (R170). -/
def controlRegister (s : State) : BitVec 32 := BitVec.ofNat 32 (s.run.toNat + 16 * s.clearMode.toNat)

/-- The cursor's place in STATE: bit 5 for AT, the index in bits 16..23, and 0 before a first start (R184). -/
def cursorField : Option Cursor → Nat
  | none => 0
  | some (.before i) => 65536 * (i % 256)
  | some (.anchor a) => 32 + 65536 * (a % 256)

/-- STATE: device state, hold, link, cursor and the active relay count (R170, R84, Registers). -/
def stateRegister (s : State) : BitVec 32 :=
  BitVec.ofNat 32 (s.device.code + 8 * s.hold.toNat + 16 * s.linkUp.toNat + 256 * (s.relays.length % 256)
    + cursorField s.cursor)

/-- The value each register reads as, by its offset; other offsets read 0 (R170, R184). -/
def registerValue (s : State) (offset : Nat) : BitVec 64 :=
  if offset = 0x00 then Config.ident.setWidth 64
  else if offset = 0x04 then (controlRegister s).setWidth 64
  else if offset = 0x08 then (stateRegister s).setWidth 64
  else if offset = 0x0C then s.events.setWidth 64
  else if offset = 0x10 then s.eventMask.setWidth 64
  else if offset = 0x20 then s.exchangeBase
  else 0#64

end Sys2Proof.Machine
end

