-- ==== Sys2Proof/Machine/Ops.lean ====
section
/-!
DEFINITION. The named operations over the state: host memory in its canonical form, the exchange accesses with the
host's writes and the bus error (R172, R185), and the tables of stacks, robots, relays, lines and standby queues.
-/

namespace Sys2Proof.Machine

/-! ## Host memory -/

/-- The byte at an address; an unlisted address reads as `Config.unwrittenByte` (log 2). -/
def Memory.get : List Host.Cell → Nat → Byte
  | [], _ => Config.unwrittenByte
  | (k, v) :: rest, a => if k = a then v else Memory.get rest a

/-- Writes a byte and keeps the canonical form: addresses rising, no entry equal to what an unlisted address reads. -/
def Memory.set : List Host.Cell → Nat → Byte → List Host.Cell
  | [], a, b => if b = Config.unwrittenByte then [] else [(a, b)]
  | (k, v) :: rest, a, b =>
    if a < k then if b = Config.unwrittenByte then (k, v) :: rest else (a, b) :: (k, v) :: rest
    else if a = k then if b = Config.unwrittenByte then rest else (a, b) :: rest
    else (k, v) :: Memory.set rest a b

/-- The canonical form: addresses strictly rising and no entry equal to what an unlisted address reads as. -/
def Memory.wf : List Host.Cell → Bool
  | [] => true
  | (k, v) :: rest => v != Config.unwrittenByte && rest.all (fun c => k < c.1) && Memory.wf rest

/-- The bytes at an address and after it. -/
def Memory.bytes (m : List Host.Cell) (a n : Nat) : List Byte := (List.range n).map fun i => Memory.get m (a + i)

/-- Writes bytes from an address on. -/
def Memory.put : List Host.Cell → Nat → List Byte → List Host.Cell
  | m, _, [] => m
  | m, a, b :: rest => Memory.put (Memory.set m a b) (a + 1) rest

/-- Writes those bytes whose mark is set: what a write cut by a bus error leaves (R185, log 4). -/
def Memory.putLanded : List Host.Cell → Nat → List Byte → List Bool → List Host.Cell
  | m, _, [], _ => m
  | m, _, _, [] => m
  | m, a, b :: rest, l :: ls => Memory.putLanded (if l then Memory.set m a b else m) (a + 1) rest ls

/-- The host's writes, oldest first. -/
def Memory.hostWrites (m : List Host.Cell) (ws : List HostWrite) : List Host.Cell :=
  ws.foldl (fun m w => Memory.set m w.addr w.byte) m

/-! ## Exchange accesses -/

/-- The device is in EXCHANGE_FAULT, where no exchange access is made (R172). -/
def faulted (s : State) : Bool := s.device == .exchangeFault

/-- A bus error enters EXCHANGE_FAULT and sets the MEMORY event (R172). -/
def enterExchangeFault (s : State) : State := setEvent .memory { s with device := .exchangeFault }

/-- The running command meets its bus error at its next access. -/
def busError (s : State) : Bool := s.bus.errorAt == some s.busCount

/-- The host's writes that land before the next access land, and the access is counted (log 3). -/
def countAccess (s : State) : State :=
  { s with
    mem := Memory.hostWrites s.mem (s.bus.writes.filter fun w => w.before ≤ s.busCount)
    bus := { s.bus with writes := s.bus.writes.filter fun w => s.busCount < w.before }
    busCount := s.busCount + 1 }

/-- One read access; no bytes when it meets the bus error or the device is in EXCHANGE_FAULT (R172). -/
def readExchange (a n : Nat) (s : State) : Option (List Byte) × State :=
  if faulted s then (none, s)
  else if busError s then (none, enterExchangeFault (countAccess s))
  else (some (Memory.bytes (countAccess s).mem a n), countAccess s)

/-- One write access; a write that meets the bus error leaves the bytes that landed (R172, R185). -/
def writeExchange (a : Nat) (bytes : List Byte) (s : State) : State :=
  if faulted s then s
  else if busError s then
    enterExchangeFault { countAccess s with mem := Memory.putLanded (countAccess s).mem a bytes s.bus.landed }
  else { countAccess s with mem := Memory.put (countAccess s).mem a bytes }

/-- A command begins with what the host and the bus do in it. -/
def beginBus (bus : Bus) (s : State) : State := { s with bus := bus, busCount := 0 }

/-- A command ends: the host's remaining writes land. -/
def endBus (s : State) : State :=
  { s with mem := Memory.hostWrites s.mem s.bus.writes, bus := {}, busCount := 0 }

/-! ## Resets -/

/-- A sense line after a reset: OFF, with its raw level read from the input as it stands (R157). -/
def Line.afterReset (l : Line) : Line := { raw := l.raw }

/-- What a power-on reset leaves (R22, R38, R99, R114, R128, R137, R147, R157, R173, R180). A frame in progress is abandoned
with all its bytes; none of them is hunted again (log 54). Host memory, the inputs of the lines, the last value read from EVENTS and the commands
that wait are outside the part and stay. -/
def powerOn (s : State) : State :=
  { State.reset with
    lines := s.lines.map Line.afterReset, mem := s.mem, readData := s.readData, bus := s.bus, busCount := s.busCount
    pending := s.pending }

/-- What a soft reset leaves: as a power-on reset, with EXCHANGE_BASE, the tick counter and the tick period kept (R128,
R173). -/
def softReset (s : State) : State :=
  { powerOn s with exchangeBase := s.exchangeBase, tick := s.tick, tickPeriod := s.tickPeriod }

/-- A reset of a kind. -/
def applyReset : ResetKind → State → State
  | .powerOn => powerOn
  | .soft => softReset

/-! ## Commands with a bus operand -/

/-- What the bus does to the accesses of a command (R172, R173). An arriving reset lets the accesses that have begun be
completed and no other be made: the first that is not made ends the command's accesses as a bus error would of which no byte
lands, unless a bus error has ended them before. -/
def inForce (bus : Bus) : Bus :=
  match bus.reset with
  | none => bus
  | some r => if bus.errorAt.any fun n => n < r.after then bus else { bus with errorAt := some r.after, landed := [] }

/-- A command ends, and the reset that has arrived takes effect (R173). -/
def finishBus (bus : Bus) (s : State) : State :=
  match bus.reset with
  | none => endBus s
  | some r => applyReset r.kind (endBus s)

/-- A command that may access the exchange area runs `f` with its bus operand and goes on. -/
def withBus (bus : Bus) (f : State → State) (s : State) : Host.Outcome State Fault Refusal :=
  .next (finishBus bus (f (beginBus (inForce bus) s)))

/-! ## Stack records -/

/-- The record of a stack. -/
def getStack (s : State) (i : Nat) : StackRec := (s.stackRecs[i]?).getD {}

/-- Changes the record of a stack. -/
def modStack (i : Nat) (f : StackRec → StackRec) (s : State) : State :=
  { s with stackRecs := s.stackRecs.modify i f }

/-- The ids of the stacks, lowest first. -/
def stackIds : List Nat := List.range Config.stackCount

/-- A stack has room: resting plus pending entries, blank holds included, below its capacity (R4). -/
def StackRec.hasRoom (k : StackRec) : Bool := k.resting.length + k.pend.length < k.capacity

/-- A stack joins districts p and q (R1). -/
def StackRec.joins (k : StackRec) (p q : Nat) : Bool :=
  (k.sideA == p && k.sideB == q) || (k.sideA == q && k.sideB == p)

/-- The side of a stack that faces a district (R1). -/
def StackRec.facing (k : StackRec) (d : Nat) : Option StackSide :=
  if k.sideA = d then some .a else if k.sideB = d then some .b else none

/-- The district that a side of a stack faces (R1). -/
def StackRec.districtOf (k : StackRec) : Option StackSide → Option Nat
  | some .a => some k.sideA
  | some .b => some k.sideB
  | none => none

/-- The top resting entry (R5). -/
def StackRec.top (k : StackRec) : Option RestEntry := k.resting.getLast?

/-- A bin rests on the stack. -/
def StackRec.rests (k : StackRec) (b : BinId) : Bool := k.resting.any fun e => e.bin == b

/-- A bin is the top resting bin. -/
def StackRec.onTop (k : StackRec) (b : BinId) : Bool := k.top.any fun e => e.bin == b

/-- A pending entry is the bin reservation of a bin (R6). -/
def PendEntry.isFor (b : BinId) : PendEntry → Bool
  | .bin b' _ _ => b' == b
  | .hold _ _ => false

/-- A pending entry is the blank hold of a shuffling robot (R7). -/
def PendEntry.isHoldOf (robot : Nat) : PendEntry → Bool
  | .bin _ _ _ => false
  | .hold _ r => r == robot

/-- The bin reservation of a bin stands on the stack. -/
def StackRec.reserved (k : StackRec) (b : BinId) : Bool := k.pend.any (PendEntry.isFor b)

/-- The stack on which a bin rests. -/
def restingStack (s : State) (b : BinId) : Option Nat := stackIds.find? fun i => (getStack s i).rests b

/-- A purpose of setting down (R14). -/
def Purpose.isSet : Purpose → Bool
  | .give | .shuffleSet => true
  | .take | .shuffleLift => false

/-! ## Robots -/

/-- The context of a declared robot. -/
def getRobot (s : State) (r : Nat) : Option Robot := s.robots.find? fun c => c.id == r

/-- Changes the context of a robot. -/
def modRobot (r : Nat) (f : Robot → Robot) (s : State) : State :=
  { s with robots := s.robots.map fun c => if c.id = r then f c else c }

/-- The robot in whose held-bin field a bin is. -/
def holdingRobot (s : State) (b : BinId) : Option Nat :=
  (s.robots.find? fun c => c.heldBin == some b).map Robot.id

/-- A robot's last known cell, or unknown (R105). -/
def robotCell (s : State) (r : Option Nat) : Option (Nat × Nat) := (r.bind (getRobot s)).bind Robot.cell

/-! ## Relays -/

/-- The active relay with a tag. -/
def getRelay (s : State) (t : Tag) : Option Relay := s.relays.find? fun r => r.tag == t

/-- Changes the record of a relay. -/
def modRelay (t : Tag) (f : Relay → Relay) (s : State) : State :=
  { s with relays := s.relays.map fun r => if r.tag = t then f r else r }

/-- Runs a rule on the relay with a tag; an event for a relay no longer held has no effect (R65). -/
def onRelay (t : Tag) (f : Relay → State → State) (s : State) : State :=
  match getRelay s t with
  | some r => f r s
  | none => s

/-- The number of hops (R85). -/
def Relay.hops (r : Relay) : Nat := r.path.length - 1

/-- The give district of the current hop, path[k−1]. -/
def Relay.giveDistrict (r : Relay) : Nat := r.path.getD (r.hop - 1) 0

/-- The take district of the current hop, path[k]. -/
def Relay.takeDistrict (r : Relay) : Nat := r.path.getD r.hop 0

/-- A sticky flag is set (R86). -/
def setFlag (t : Tag) (f : Sticky → Sticky) (s : State) : State :=
  modRelay t (fun r => { r with flags := f r.flags }) s

/-- The named taker of hop k becomes ANY (R92). -/
def takerToAny (t : Tag) (k : Nat) (s : State) : State :=
  modRelay t (fun r => { r with takers := r.takers.set (k - 1) none }) s

/-! ## Lines and queues -/

/-- A sense line. -/
def getLine (s : State) (n : Nat) : Line := (s.lines[n]?).getD {}

/-- Changes a sense line. -/
def modLine (n : Nat) (f : Line → Line) (s : State) : State := { s with lines := s.lines.modify n f }

/-- The standby queue of a district (R106). -/
def getQueue (s : State) (d : Nat) : List Nat := (s.standby[d - 1]?).getD []

/-- Changes the standby queue of a district. -/
def modQueue (d : Nat) (f : List Nat → List Nat) (s : State) : State :=
  { s with standby := s.standby.modify (d - 1) f }

/-! ## Ticks -/

/-- The time from one tick to another: the signed 32-bit difference (R116). -/
def ticksBetween (a b : Tick) : Int := (b - a).toInt

/-- A tick before another: the difference is positive (R116). -/
def tickBefore (a b : Tick) : Bool := 0 < ticksBetween a b

end Sys2Proof.Machine
end

