-- ==== Sys2Proof/Machine/Operands.lean ====
section
/-!
DEFINITION. The operand forms: how the header, the slots and the ten request bodies are read from host memory
(13_record_layouts.md, R181 to R186), and how outcomes, notices and outbound frames are laid out. A request that fails
the field checks of its entry reads as `none` and is refused FIELD (R183, R186).
-/

namespace Sys2Proof.Machine

/-! ## Fields in host memory: least significant byte first -/

/-- A byte of a record as a number; past the record's end it is 0. -/
def byteAt (bs : List Byte) (i : Nat) : Nat := (bs.getD i 0#8).toNat

/-- A two-byte field. -/
def word16At (bs : List Byte) (i : Nat) : Nat := byteAt bs i + 256 * byteAt bs (i + 1)

/-- A four-byte field. -/
def word32At (bs : List Byte) (i : Nat) : Nat := word16At bs i + 65536 * word16At bs (i + 2)

/-- An eight-byte field. -/
def word64At (bs : List Byte) (i : Nat) : Nat := word32At bs i + 4294967296 * word32At bs (i + 4)

/-- One byte of a number. -/
def byteOf (n : Nat) : Byte := BitVec.ofNat 8 n

/-- A number as a two-byte field. -/
def le16 (n : Nat) : List Byte := [byteOf n, byteOf (n / 256)]

/-- A word as a four-byte field. -/
def le32 (w : BitVec 32) : List Byte := le16 w.toNat ++ le16 (w.toNat / 65536)

/-- A word as a four-byte field of the fleet link, most significant byte first. -/
def be32 (w : BitVec 32) : List Byte := (le32 w).reverse

/-- Every byte of a record from an offset on is 0 (R186). -/
def clearFrom (bs : List Byte) (i : Nat) : Bool := (bs.drop i).all fun b => b == 0#8

/-- The bytes of a record from one offset up to another are 0 (R186). -/
def clearBetween (bs : List Byte) (i j : Nat) : Bool := ((bs.take j).drop i).all fun b => b == 0#8

/-! ## The exchange header (R158, R181) -/

/-- The header as a start reads it. -/
structure Header where
  marker : Nat
  slotCount : Nat
  noticeCount : Nat
  slotBase : Nat
  ringBase : Nat
  tickRate : Nat
  pollInterval : Nat
  firstSlot : Nat
  takeIndex : Nat
  deriving DecidableEq, Repr

/-- Reads the header's fields; reserved bytes are not read (R186). -/
def Header.ofBytes (bs : List Byte) : Header :=
  { marker := word32At bs 0, slotCount := word16At bs 4, noticeCount := word16At bs 6, slotBase := word64At bs 8,
    ringBase := word64At bs 16, tickRate := byteAt bs 24, pollInterval := byteAt bs 25, firstSlot := word16At bs 26,
    takeIndex := word16At bs 30 }

/-- The tick period of a tick rate code, in milliseconds; codes 6 and 7 and above are invalid (00_scope, R115). -/
def tickPeriodOf : Nat → Option Nat
  | 0 => some 1
  | 1 => some 2
  | 2 => some 5
  | 3 => some 10
  | 4 => some 20
  | 5 => some 50
  | _ => none

/-- Two spans of host memory overlap (R159). -/
def overlaps (a n b m : Nat) : Bool := a < b + m && b < a + n

/-- The checks of a start on the header that lies at `base` (R159). -/
def Header.passes (h : Header) (base : Nat) : Bool :=
  h.marker == Config.marker && 16 ≤ h.slotCount && h.slotCount ≤ 256 && 64 ≤ h.noticeCount && h.noticeCount ≤ 1024
    && (tickPeriodOf h.tickRate).isSome && h.firstSlot < h.slotCount && h.takeIndex < h.noticeCount
    && h.slotBase != 0 && h.slotBase % 32 == 0 && h.ringBase != 0 && h.ringBase % 32 == 0
    && !overlaps base Config.headerBytes h.slotBase (h.slotCount * Config.slotBytes)
    && !overlaps base Config.headerBytes h.ringBase (h.noticeCount * Config.noticeBytes)
    && !overlaps h.slotBase (h.slotCount * Config.slotBytes) h.ringBase (h.noticeCount * Config.noticeBytes)

/-! ## Request bodies -/

/-- A DECLARE_STACK body (12, DECLARE_STACK). -/
structure DeclareStack where
  stack : Nat
  x : Nat
  y : Nat
  sideA : Nat
  sideB : Nat
  capacity : Nat
  zone : Temp
  deriving DecidableEq, Repr

/-- A district id (00_scope, Identifiers). -/
def isDistrict (d : Nat) : Bool := 1 ≤ d && d ≤ 8

/-- A robot id (00_scope, Identifiers). -/
def isRobot (r : Nat) : Bool := 1 ≤ r && r ≤ 250

/-- Reads a DECLARE_STACK body: the two FIELD checks of R175. -/
def DeclareStack.ofBody (b : List Byte) : Option DeclareStack :=
  match Temp.ofCode (byteAt b 6) with
  | none => none
  | some zone =>
    if clearFrom b 7 && byteAt b 0 < 64 && isDistrict (byteAt b 3) && isDistrict (byteAt b 4)
        && 1 ≤ byteAt b 5 && byteAt b 5 ≤ 8 && byteAt b 3 != byteAt b 4 then
      some { stack := byteAt b 0, x := byteAt b 1, y := byteAt b 2, sideA := byteAt b 3, sideB := byteAt b 4,
             capacity := byteAt b 5, zone := zone }
    else none

/-- A DECLARE_ROBOT body (12, DECLARE_ROBOT). -/
structure DeclareRobot where
  robot : Nat
  district : Nat
  offset : Nat
  gain : Nat
  format : LoadFormat
  deriving DecidableEq, Repr

/-- The load format of a code (Enumerations). -/
def LoadFormat.ofCode : Nat → Option LoadFormat
  | 0 => some .right
  | 1 => some .left
  | _ => none

/-- Reads a DECLARE_ROBOT body: the FIELD check of R177. -/
def DeclareRobot.ofBody (b : List Byte) : Option DeclareRobot :=
  match LoadFormat.ofCode (byteAt b 2) with
  | none => none
  | some format =>
    if clearBetween b 3 4 && clearFrom b 8 && isRobot (byteAt b 0) && isDistrict (byteAt b 1)
        && word16At b 4 ≤ 4095 && 1 ≤ word16At b 6 && word16At b 6 ≤ 4095 then
      some { robot := byteAt b 0, district := byteAt b 1, offset := word16At b 4, gain := word16At b 6,
             format := format }
    else none

/-- A RETIRE body (12, RETIRE). -/
inductive Retire where
  | stack (id : Nat)
  | robot (id : Nat)
  deriving DecidableEq, Repr

/-- Reads a RETIRE body: the FIELD check of R178. -/
def Retire.ofBody (b : List Byte) : Option Retire :=
  if !clearFrom b 2 then none
  else if byteAt b 0 = 0 then if byteAt b 1 < 64 then some (.stack (byteAt b 1)) else none
  else if byteAt b 0 = 1 then if isRobot (byteAt b 1) then some (.robot (byteAt b 1)) else none
  else none

/-- A TUNE body, each part present or absent (12, TUNE). -/
structure Tune where
  weights : Option (Nat × Nat × Nat × Nat)
  tolerance : Option (Nat × Nat)
  timing : Option (Nat × List PhaseTiming)
  silence : Option Nat
  deriving DecidableEq, Repr

/-- A bit of a byte. -/
def bitAt (n i : Nat) : Bool := n / 2 ^ i % 2 == 1

/-- The nine phases of a TIMING part, in phase-code order. -/
def phasesAt (b : List Byte) (i : Nat) : List PhaseTiming :=
  (List.range 9).map fun p => ⟨word16At b (i + 4 * p), word16At b (i + 4 * p + 2)⟩

/-- Reads a TUNE body: the checks of R179; the bytes of an absent part are not read (R186). -/
def Tune.ofBody (b : List Byte) : Option Tune :=
  if clearBetween b 7 8 && clearFrom b 48 && byteAt b 0 != 0 && byteAt b 0 < 16
      && (!bitAt (byteAt b 0) 1 || word16At b 10 ≤ 1023)
      && (!bitAt (byteAt b 0) 2 || byteAt b 1 ≤ 3) then
    some {
      weights := if bitAt (byteAt b 0) 0 then some (byteAt b 2, byteAt b 3, byteAt b 4, byteAt b 5) else none
      tolerance := if bitAt (byteAt b 0) 1 then some (word16At b 8, word16At b 10) else none
      timing := if bitAt (byteAt b 0) 2 then some (byteAt b 1, phasesAt b 12) else none
      silence := if bitAt (byteAt b 0) 3 then some (byteAt b 6) else none }
  else none

/-- One entry of a LINES body (10, LINES). -/
structure LineEntry where
  line : Nat
  fn : LineFn
  check : Nat
  edge : Edge
  deriving DecidableEq, Repr

/-- The edge setting of a code (Enumerations). -/
def Edge.ofCode : Nat → Edge
  | 0 => .none
  | 1 => .rise
  | 2 => .fall
  | _ => .both

/-- The line function of a code and stack id (Enumerations); the stack is read for OVERFILL only (R155). -/
def LineFn.ofCode : Nat → Nat → Option LineFn
  | 0, _ => some .off
  | 1, stack => if stack < 64 then some (.overfill stack) else none
  | 2, _ => some .gate
  | _, _ => none

/-- Reads the entry of a LINES body at an offset. -/
def LineEntry.ofBody (b : List Byte) (i : Nat) : Option LineEntry :=
  match LineFn.ofCode (byteAt b (i + 1)) (byteAt b (i + 2)) with
  | none => none
  | some fn =>
    if byteAt b i < 32 && !bitAt (byteAt b (i + 3)) 3 && byteAt b (i + 3) < 64 then
      some { line := byteAt b i, fn := fn, check := byteAt b (i + 3) % 8, edge := Edge.ofCode (byteAt b (i + 3) / 16 % 4) }
    else none

/-- Reads a LINES body: the count, the ranges, the reserved places and distinct lines (R155). -/
def linesOfBody (b : List Byte) : Option (List LineEntry) :=
  if clearBetween b 1 4 && clearFrom b (4 + 4 * byteAt b 0) && 1 ≤ byteAt b 0 && byteAt b 0 ≤ 32 then
    match (List.range (byteAt b 0)).mapM fun k => LineEntry.ofBody b (4 + 4 * k) with
    | some es => if (es.map LineEntry.line).Nodup then some es else none
    | none => none
  else none

/-- A STANDBY body (06, STANDBY): the robot, and true for ADD. -/
def standbyOfBody (b : List Byte) : Option (Nat × Bool) :=
  if clearFrom b 2 && isRobot (byteAt b 0) && byteAt b 1 ≤ 1 then some (byteAt b 0, byteAt b 1 == 0) else none

/-- A SEED body (01, SEED): the stack and the bins, bottom to top. -/
def seedOfBody (b : List Byte) : Option (Nat × List BinId) :=
  if clearBetween b 2 4 && clearFrom b (4 + 4 * byteAt b 1) && byteAt b 0 < 64 && byteAt b 1 ≤ 8
      && (List.range (byteAt b 1)).all (fun k => word32At b (4 + 4 * k) != 0) then
    some (byteAt b 0, (List.range (byteAt b 1)).map fun k => BitVec.ofNat 32 (word32At b (4 + 4 * k)))
  else none

/-- A RELAY order (05, RELAY); a taker of none is ANY, a reference of none is not given. -/
structure RelayOrder where
  tag : Tag
  bin : BinId
  cls : Temp
  budget : Nat
  due : Tick
  reference : Option Nat
  timingSet : Nat
  strictLoad : Bool
  allowShuffle : Bool
  abortOnExposure : Bool
  origin : Origin
  path : List Nat
  takers : List (Option Nat)
  deriving DecidableEq, Repr

/-- The origin of a kind code and id (R87). -/
def Origin.ofCode : Nat → Nat → Option Origin
  | 0, id => if isRobot id then some (.robot id) else none
  | 1, id => if id < 64 then some (.stack id) else none
  | _, _ => none

/-- Reads a RELAY body with the slot's tag: the field checks of R87 and the reserved places of R186. -/
def RelayOrder.ofBody (tag : Tag) (b : List Byte) : Option RelayOrder :=
  match Temp.ofCode (byteAt b 8), Origin.ofCode (byteAt b 11) (byteAt b 12) with
  | some cls, some origin =>
    let n := byteAt b 13
    let path := (List.range n).map fun k => byteAt b (18 + k)
    let takers := (List.range (n - 1)).map fun k => byteAt b (24 + k)
    if 2 ≤ n && n ≤ 6 && clearBetween b (18 + n) 24 && clearBetween b (23 + n) 29 && clearFrom b 29
        && byteAt b 10 < 8 && tag != 0#32 && word32At b 0 != 0 && byteAt b 9 ≤ 3
        && path.all isDistrict && takers.all (fun r => r ≤ 250) && path.Nodup then
      some {
        tag := tag, bin := BitVec.ofNat 32 (word32At b 0), cls := cls, budget := word16At b 14,
        due := BitVec.ofNat 32 (word32At b 4)
        reference := if word16At b 16 = 0 then none else some (word16At b 16)
        timingSet := byteAt b 9
        strictLoad := bitAt (byteAt b 10) 0
        allowShuffle := bitAt (byteAt b 10) 1
        abortOnExposure := bitAt (byteAt b 10) 2
        origin := origin, path := path
        takers := takers.map fun r => if r = 0 then none else some r }
    else none
  | _, _ => none

/-- A WITHDRAW body: the relay's tag (R93). -/
def withdrawOfBody (b : List Byte) : Option Tag :=
  if clearFrom b 4 then some (BitVec.ofNat 32 (word32At b 0)) else none

/-- A RULING body: the relay's tag, and true for ACCEPT (R95). -/
def rulingOfBody (b : List Byte) : Option (Tag × Bool) :=
  if !clearFrom b 5 then none
  else if byteAt b 4 = 1 then some (BitVec.ofNat 32 (word32At b 0), true)
  else if byteAt b 4 = 2 then some (BitVec.ofNat 32 (word32At b 0), false)
  else none

/-! ## Outcomes and notices -/

/-- The final place of an outcome (R98). -/
inductive Place where
  | none
  | stack (id : Nat)
  | robot (id : Nat)
  deriving DecidableEq, Repr

/-- The final place kind (Outcome fields). -/
def Place.kind : Place → Nat
  | .none => 0
  | .stack _ => 1
  | .robot _ => 2

/-- The final place id, 0 for NONE (Outcome fields). -/
def Place.id : Place → Nat
  | .none => 0
  | .stack i => i
  | .robot r => r

/-- An outcome as it is written into a slot (R167). -/
structure Outcome where
  code : Code
  endTick : Tick
  hop : Nat
  place : Place
  flags : Sticky
  deriving DecidableEq, Repr

/-- Bytes 144..159 of a slot, reserved bytes 0 (R185). -/
def Outcome.bytes (o : Outcome) : List Byte :=
  [byteOf o.code.value, byteOf o.place.kind, byteOf o.hop, byteOf o.flags.byte] ++ le32 o.endTick
    ++ byteOf o.place.id :: List.replicate 7 0#8

/-- A notice: the fields of its entry, with the detail bytes its kind names (Notice entry). -/
structure Notice where
  kind : Nat
  tick : Tick
  tag : Tag := 0#32
  robot : Nat := 0
  stack : Option Nat := none
  bin : BinId := 0#32
  detail : List Byte := []
  deriving DecidableEq, Repr

/-- The 32 bytes of a notice entry; reserved and unnamed detail bytes are 0 (R185). -/
def Notice.bytes (n : Notice) : List Byte :=
  [byteOf n.kind, byteOf n.robot, byteOf (n.stack.getD 0), byteOf n.stack.isSome.toNat] ++ le32 n.tick ++ le32 n.tag
    ++ le32 n.bin ++ (n.detail ++ List.replicate (8 - n.detail.length) 0#8) ++ List.replicate 8 0#8

/-- The causes of SUSPECT (R17). -/
inductive Cause where
  | level | giveTimeout | takeTimeout | overfill | fault
  deriving DecidableEq, Repr

/-- The cause codes (Notice entry, STACK_SUSPECT). -/
def Cause.code : Cause → Nat
  | .level => 0
  | .giveTimeout => 1
  | .takeTimeout => 2
  | .overfill => 3
  | .fault => 4

/-- The causes of service hold (R153). -/
inductive HoldCause where
  | gates | host
  deriving DecidableEq, Repr

/-- The hold cause codes (Notice entry, HOLD_ON). -/
def HoldCause.code : HoldCause → Nat
  | .gates => 0
  | .host => 1

/-- OUTCOME (11, OUTCOME). -/
def outcomeNotice (tag : Tag) (slot : Nat) (bin : BinId) (o : Outcome) : Notice :=
  { kind := 1, tick := o.endTick, tag := tag
    robot := match o.place with | .robot r => r | _ => 0
    stack := match o.place with | .stack i => some i | _ => none
    bin := bin, detail := [byteOf o.code.value, byteOf o.place.kind] ++ le16 slot }

/-- LATE (07, LATE). -/
def lateNotice (now : Tick) (tag : Tag) (robot : Nat) (stack : Option Nat) (bin : BinId) (p : Phase) : Notice :=
  { kind := 2, tick := now, tag := tag, robot := robot, stack := stack, bin := bin, detail := [byteOf p.code] }

/-- EXPOSED (07, EXPOSED). -/
def exposedNotice (now : Tick) (tag : Tag) (robot : Nat) (stack : Option Nat) (bin : BinId) (budget : Nat) : Notice :=
  { kind := 3, tick := now, tag := tag, robot := robot, stack := stack, bin := bin, detail := le16 budget }

/-- QUERY (08, QUERY). -/
def queryNotice (now : Tick) (tag : Tag) (robot : Nat) (stack : Option Nat) (bin : BinId) (grams : Nat) : Notice :=
  { kind := 4, tick := now, tag := tag, robot := robot, stack := stack, bin := bin, detail := le16 grams }

/-- SHUFFLE (04, SHUFFLE). -/
def shuffleNotice (now : Tick) (tag : Tag) (robot target : Nat) (bin : BinId) (source : Nat) : Notice :=
  { kind := 5, tick := now, tag := tag, robot := robot, stack := some target, bin := bin, detail := [byteOf source] }

/-- RELEASED (06, RELEASED): the side is GIVER 0 or TAKER 1. -/
def releasedNotice (now : Tick) (tag : Tag) (robot : Nat) (bin : BinId) (side : Side) : Notice :=
  { kind := 6, tick := now, tag := tag, robot := robot, bin := bin
    detail := [match side with | .give => 0#8 | .take => 1#8] }

/-- ROBOT_FAULT (06, ROBOT_FAULT): a phase, or REPORT. -/
def robotFaultNotice (now : Tick) (tag : Tag) (robot : Nat) (stack : Option Nat) (bin : BinId) (p : Option Phase) :
    Notice :=
  { kind := 7, tick := now, tag := tag, robot := robot, stack := stack, bin := bin
    detail := [match p with | some p => byteOf p.code | none => 0xFF#8] }

/-- STACK_SUSPECT (01, STACK_SUSPECT). -/
def suspectNotice (now : Tick) (tag : Tag) (robot stack : Nat) (bin : BinId) (c : Cause) : Notice :=
  { kind := 8, tick := now, tag := tag, robot := robot, stack := some stack, bin := bin, detail := [byteOf c.code] }

/-- LINE_CHANGE (10, LINE_CHANGE). -/
def lineChangeNotice (now : Tick) (stack : Option Nat) (line : Nat) (level : Bool) : Notice :=
  { kind := 9, tick := now, stack := stack, detail := [byteOf line, byteOf level.toNat] }

/-- HOLD_ON (10, HOLD_ON). -/
def holdOnNotice (now : Tick) (c : HoldCause) : Notice := { kind := 10, tick := now, detail := [byteOf c.code] }

/-- HOLD_OFF (10, HOLD_OFF). -/
def holdOffNotice (now : Tick) (frames : Nat) : Notice := { kind := 11, tick := now, detail := le16 frames }

/-- LINK_DOWN (09, LINK_DOWN). -/
def linkDownNotice (now : Tick) (frames : Nat) : Notice := { kind := 12, tick := now, detail := le16 frames }

/-- LINK_UP (09, LINK_UP). -/
def linkUpNotice (now : Tick) (frames : Nat) : Notice := { kind := 13, tick := now, detail := le16 frames }

/-- GAP (11, GAP). -/
def gapNotice (now start : Tick) : Notice := { kind := 14, tick := now, detail := le32 start }

/-! ## Outbound frames -/

/-- The type and body bytes of an outbound frame; reserved bytes are sent as 0 (R186). -/
def OutFrame.typed : OutFrame → List Byte
  | .approach r q x y => [0x01#8, byteOf r, q, byteOf x, byteOf y]
  | .set r q x y l b => [0x02#8, byteOf r, q, byteOf x, byteOf y, byteOf l, 0#8] ++ be32 b
  | .lift r q x y l b => [0x03#8, byteOf r, q, byteOf x, byteOf y, byteOf l, 0#8] ++ be32 b
  | .release r => [0x04#8, byteOf r]

/-- An outbound frame as it travels, with its CRC (R139). -/
def OutFrame.bytes (f : OutFrame) : List Byte := frameAround f.typed

/-- The robot an outbound frame names. -/
def OutFrame.robot : OutFrame → Nat
  | .approach r _ _ _ => r
  | .set r _ _ _ _ _ => r
  | .lift r _ _ _ _ _ => r
  | .release r => r

/-- A frame that carries a step (R141). -/
def OutFrame.isStep : OutFrame → Bool
  | .approach _ _ _ _ | .set _ _ _ _ _ _ | .lift _ _ _ _ _ _ => true
  | .release _ => false

end Sys2Proof.Machine
end

