-- ==== Sys2Proof/Machine/Notices.lean ====
section
/-!
DEFINITION. The Exchange Port's writes: the notice ring (R168, R169), the ending of slots (R167) and the line image
(R150, R158).
-/

namespace Sys2Proof.Machine

/-- The device writes the header, slots and ring: RUNNING, STOPPED or BROKEN (R158). -/
def exchangeOpen (s : State) : Bool :=
  s.device == .running || s.device == .stopped || s.device == .broken

/-- The address of a slot. -/
def Kept.slotAddr (k : Kept) (i : Nat) : Nat := k.slotBase + Config.slotBytes * i

/-- The ring is full by the kept take index (R168). -/
def Kept.full (k : Kept) : Bool := (k.writeIndex + 1) % k.noticeCount == k.takeIndex

/-- The ring is full; without a start there is no ring and nothing is appended. -/
def ringFull (s : State) : Bool := s.kept.all Kept.full

/-- The take index is read from the header; a value not below the notice count is not kept (R168 step 1, R163). -/
def readTakeIndex (s : State) : State :=
  match readExchange (s.exchangeBase.toNat + 30) 2 s with
  | (some bs, s') =>
    { s' with kept := s'.kept.map fun k =>
        if word16At bs 0 < k.noticeCount then { k with takeIndex := word16At bs 0 } else k }
  | (none, s') => s'

/-- Steps 4 and 5 of R168: the entry is written at the write index, the index advances and is written into the header,
and NOTICE is set. A bus error ends the append (R172). -/
def putNotice (n : Notice) (s : State) : State :=
  match s.kept with
  | none => s
  | some k =>
    let s1 := writeExchange (k.ringBase + Config.noticeBytes * k.writeIndex) n.bytes s
    if faulted s1 then s1
    else
      let w := (k.writeIndex + 1) % k.noticeCount
      let s2 := writeExchange (s.exchangeBase.toNat + 28) (le16 w)
        { s1 with kept := some { k with writeIndex := w } }
      if faulted s2 then s2 else setEvent .notice s2

/-- When the gap flag is set and the ring has room, a GAP notice is appended and the flag is cleared (R168 step 2,
R169). The flag is cleared before the entry is written, so an append cut by a bus error leaves it clear (log 18). -/
def putGap (s : State) : State :=
  match s.gap with
  | none => s
  | some start => if ringFull s then s else putNotice (gapNotice s.tick start) { s with gap := none }

/-- Step 3 of R168: a notice that meets a full ring is discarded. -/
def discardNotice (s : State) : State :=
  setEvent .ringFull { s with gap := some (s.gap.getD s.tick) }

/-- A notice is handed to the Exchange Port (R168); in IDLE and EXCHANGE_FAULT it is discarded without a trace. -/
def notify (n : Notice) (s : State) : State :=
  if !exchangeOpen s then s
  else
    let s1 := if ringFull s then readTakeIndex s else s
    if faulted s1 then s1
    else
      let s2 := putGap s1
      if faulted s2 then s2
      else if ringFull s2 then discardNotice s2
      else putNotice n s2

/-- The outcome fields are written, then the ownership ENDED (R167). -/
def writeOutcome (slot : Nat) (o : Outcome) (s : State) : State :=
  match s.kept with
  | none => s
  | some k => writeExchange (k.slotAddr slot) [3#8] (writeExchange (k.slotAddr slot + 144) o.bytes s)

/-- A request that ends at once is ended with DONE or a refusal (R167, R97). -/
def endRequest (slot : Nat) (tag : Tag) (code : Code) (s : State) : State :=
  if !exchangeOpen s then s
  else
    let o : Outcome := { code := code, endTick := s.tick, hop := 0, place := .none, flags := {} }
    let s1 := writeOutcome slot o s
    if faulted s1 then s1 else notify (outcomeNotice tag slot 0#32 o) s1

/-- The slot of a relay is ended (R167): the ownership byte is read, the outcome is written only into a slot that is
still TAKEN, and the OUTCOME notice is appended all the same. -/
def endRelaySlot (slot : Nat) (tag : Tag) (bin : BinId) (o : Outcome) (s : State) : State :=
  if !exchangeOpen s then s
  else
    match s.kept with
    | none => s
    | some k =>
      match readExchange (k.slotAddr slot) 1 s with
      | (none, s1) => s1
      | (some own, s1) =>
        let s2 := if byteAt own 0 = 2 then writeOutcome slot o s1 else s1
        if faulted s2 then s2 else notify (outcomeNotice tag slot bin o) s2

/-- The line image: bit n is line n, 1 for ASSERTED (R150, R181). -/
def lineImage (s : State) : BitVec 32 :=
  BitVec.ofNat 32 ((s.lines.zipIdx.map fun (l, n) => l.level.toNat * 2 ^ n).sum)

/-- The Sense Unit hands the image over, and the Exchange Port writes it into the header (R150, R158). -/
def writeImage (s : State) : State :=
  if !exchangeOpen s then s else writeExchange (s.exchangeBase.toNat + 32) (le32 (lineImage s)) s

end Sys2Proof.Machine
end

