-- ==== Sys2Proof/Machine/Link.lean ====
section
/-!
DEFINITION. The Fleet Link Controller (09_the_fleet_link.md): the outbound queue (R141), the transmitter (R142), the
opening and closing of steps (R140, R144) and the link state (R146).
-/

namespace Sys2Proof.Machine

/-! ## The outbound queue and the transmitter -/

/-- The frames that have not begun to leave: all but the head while it is being sent (R141). -/
def unsentFrames (s : State) : List OutFrame := if s.tx.isSome then s.outq.drop 1 else s.outq

/-- Removes unsent frames of a kind; the frames behind keep their order, and a frame being sent stays (R141). -/
def removeUnsent (p : OutFrame → Bool) (s : State) : State :=
  { s with outq := (if s.tx.isSome then s.outq.take 1 else []) ++ (unsentFrames s).filter fun f => !p f }

/-- A frame is appended to the tail of the queue (R141). -/
def queueFrame (f : OutFrame) (s : State) : State := { s with outq := s.outq ++ [f] }

/-- A RELEASE frame is asked for; a standing unsent one for the robot serves (R141). One that is being sent is none that
stands unsent, so another is queued behind it, and both stay if the first is cut off (log 53). -/
def queueRelease (r : Nat) (s : State) : State :=
  if (unsentFrames s).contains (.release r) then s else queueFrame (.release r) s

/-- An unsent step frame of a robot is removed when its step is closed or cleared (R141). The removal goes by the robot and
not by the step's number, so a frame that was being sent at the end of its own step and was cut off afterwards goes with the
frame of the robot's next step (log 48). -/
def removeStepFrame (r : Nat) (s : State) : State := removeUnsent (fun f => f.isStep && f.robot == r) s

/-- A frame being sent is cut off and stays at the head of the queue (R142). -/
def cutOff (s : State) : State := { s with tx := none }

/-! ## Steps -/

/-- The frame that carries a step to a robot (R140). -/
def Step.frame (r : Nat) (p : Step) : OutFrame :=
  match p.kind with
  | .approach => .approach r p.seq p.x p.y
  | .set => .set r p.seq p.x p.y p.level p.bin
  | .lift => .lift r p.seq p.x p.y p.level p.bin

/-- A step is opened for a robot at a stack's cell: its next number is taken, its frame is queued and the robot becomes
ACTING (R140, R43). -/
def openStep (r : Nat) (kind : StepKind) (stack level : Nat) (bin : BinId) (s : State) : State :=
  match getRobot s r with
  | none => s
  | some c =>
    let p : Step := { seq := c.nextSeq, kind := kind, x := (getStack s stack).x, y := (getStack s stack).y,
                      level := level, bin := bin }
    queueFrame (p.frame r)
      (modRobot r (fun c => { c with step := some p, nextSeq := c.nextSeq + 1#8, state := .acting }) s)

/-- A matched report closes the open step: the robot leaves ACTING for LENT and an unsent frame is removed (R144). -/
def closeStep (r : Nat) (s : State) : State :=
  removeStepFrame r (modRobot r (fun c => { c with step := none, state := .lent }) s)

/-! ## Link state -/

/-- The link goes DOWN: the LINK event, a LINK_DOWN notice, and the transmitter stops (R146, R142). -/
def linkGoesDown (s : State) : State :=
  let s1 := setEvent .link (cutOff { s with linkUp := false })
  notify (linkDownNotice s1.tick s1.outq.length) s1

/-- The link comes UP with a fresh silence count: the LINK event and a LINK_UP notice (R146). -/
def linkComesUp (s : State) : State :=
  let s1 := setEvent .link { s with linkUp := true, silence := 0, silenceDue := false }
  notify (linkUpNotice s1.tick s1.outq.length) s1

/-- A valid frame reaches the link state: it brings a DOWN link UP (R146). -/
def linkHears (s : State) : State := if s.linkUp then s else linkComesUp s

end Sys2Proof.Machine
end

