-- ==== Sys2Proof/Machine/Access.lean ====
section
/-!
DEFINITION. The sides of a hop with their step timers (R39, R118, R119), and access to a stack: the wait list (R12,
R13), the arbiter (R14), the grant (R15, R47, R52, R69, R71) and the top report (R16, R51, R66).
-/

namespace Sys2Proof.Machine

/-! ## Timed states -/

/-- The phase of a give state (R118). -/
def GiveState.phase : GiveState → Option Phase
  | .placing => some .place
  | .approach => some .giveApproach
  | .wait => some .giveWait
  | .setting => some .giveAct
  | .done => none

/-- The phase of a take state (R118). -/
def TakeState.phase : TakeState → Option Phase
  | .shufWait => some .giveWait
  | .shufSet => some .giveAct
  | .approach => some .takeApproach
  | .unassigned | .ready | .wait => some .rest
  | .lifting | .shufLift => some .takeAct
  | .buried => some .bury
  | .query => some .query
  | .idle | .done => none

/-- A shuffle state of a take side (R66). -/
def TakeState.isShuffle : TakeState → Bool
  | .shufLift | .shufWait | .shufSet => true
  | _ => false

/-- The warn and limit of a phase in a timing set (R117). -/
def Tuning.phaseTiming (tn : Tuning) (set : Nat) (p : Phase) : PhaseTiming :=
  ((tn.timing.getD set []).getD p.code ⟨0, 0⟩)

/-- The timing that an entry into a state starts: count 0, the values in force, warned clear; none for an untimed state
(R119). -/
def startTimer (tn : Tuning) (set : Nat) : Option Phase → Option Timer
  | none => none
  | some p =>
    some { phase := p, count := 0, warn := (tn.phaseTiming set p).warn, limit := (tn.phaseTiming set p).limit,
           warned := false, running := true, warnDue := false, limitDue := false }

/-- A give side enters a state (R119). -/
def enterGive (t : Tag) (st : GiveState) (s : State) : State :=
  modRelay t (fun r => { r with give := { r.give with
    state := st, timer := startTimer s.tuning r.timingSet st.phase } }) s

/-- A take side enters a state (R119). -/
def enterTake (t : Tag) (st : TakeState) (s : State) : State :=
  modRelay t (fun r => { r with take := { r.take with
    state := st, timer := startTimer s.tuning r.timingSet st.phase } }) s

/-- The giver is sent a step at a stack and the side enters its state (R43). -/
def giveStep (t : Tag) (r : Nat) (kind : StepKind) (stack level : Nat) (bin : BinId) (st : GiveState) (s : State) :
    State :=
  enterGive t st (modRelay t (fun q => { q with give := { q.give with stepStack := some stack } })
    (openStep r kind stack level bin s))

/-- The taker is sent a step at a stack and the side enters its state (R43). -/
def takeStep (t : Tag) (r : Nat) (kind : StepKind) (stack level : Nat) (bin : BinId) (st : TakeState) (s : State) :
    State :=
  enterTake t st (modRelay t (fun q => { q with take := { q.take with stepStack := some stack } })
    (openStep r kind stack level bin s))

/-- A side's step has closed: its step stack is cleared and its phase timer stops (R43). -/
def closeSide (t : Tag) (robot : Nat) (s : State) : State :=
  modRelay t (fun r =>
    if r.give.robot = some robot then { r with give := { r.give with stepStack := none, timer := none } }
    else if r.take.robot = some robot then { r with take := { r.take with stepStack := none, timer := none } }
    else r) s

/-! ## Grants -/

/-- A grant reaches the Relay Table with the level of the work: the side waiting for it is sent its SET or LIFT (R15,
R47, R52, R69, R71). -/
def grantTo (i : Nat) (e : Access) (level : Nat) (s : State) : State :=
  onRelay e.tag (fun r s =>
    match e.purpose with
    | .give =>
      if r.give.state = .wait ∧ r.give.robot = some e.robot then giveStep e.tag e.robot .set i level e.bin .setting s
      else s
    | .take =>
      if r.take.state = .wait ∧ r.take.robot = some e.robot then takeStep e.tag e.robot .lift i level e.bin .lifting s
      else s
    | .shuffleLift =>
      if r.take.state = .buried ∧ r.take.robot = some e.robot then
        takeStep e.tag e.robot .lift i level e.bin .shufLift s
      else s
    | .shuffleSet =>
      if r.take.state = .shufWait ∧ r.take.robot = some e.robot then
        takeStep e.tag e.robot .set i level e.bin .shufSet s
      else s) s

/-- A robot holds access at another stack, so a pass of the arbiter skips its entry (R14). -/
def holdsElsewhere (s : State) (i r : Nat) : Bool :=
  ((getRobot s r).bind Robot.accessHeld).any fun j => j != i

/-- The entry that a run of the arbiter grants, in its two passes (R14). -/
def arbiterPick (s : State) (i : Nat) : Option Access :=
  let k := getStack s i
  if k.holder.isSome || k.state != .active then none
  else
    match k.waits.find? fun e => !e.purpose.isSet && k.onTop e.bin && !holdsElsewhere s i e.robot with
    | some e => some e
    | none =>
      if k.blocked then none else k.waits.find? fun e => e.purpose.isSet && !holdsElsewhere s i e.robot

/-- The level of a grant's work (R15). -/
def StackRec.workLevel (k : StackRec) (p : Purpose) : Nat :=
  if p.isSet then k.resting.length else k.resting.length - 1

/-- A run of the arbiter of a stack (R14, R15). -/
def arbiter (i : Nat) (s : State) : State :=
  match arbiterPick s i with
  | none => s
  | some e =>
    grantTo i e ((getStack s i).workLevel e.purpose)
      (modRobot e.robot (fun c => { c with accessHeld := some i })
        (modStack i (fun k => { k with holder := some e, waits := k.waits.erase e }) s))

/-! ## Wait lists and access -/

/-- The conditions under which the store accepts a join (R12, R19). -/
def joinAccepted (s : State) (i : Nat) (e : Access) : Bool :=
  let k := getStack s i
  !(k.waits.any fun w => w.robot == e.robot) && k.waits.length < 2 * k.capacity &&
    if e.purpose.isSet then k.state == .active && k.reserved e.bin
    else (k.state == .active || k.state == .suspect) && k.rests e.bin

/-- A join that the store accepts places the entry at the tail or the head (R12); the arbiter run that follows is the
caller's, after the side has entered its waiting state. -/
def joinWaits (i : Nat) (head : Bool) (e : Access) (s : State) : State :=
  modStack i (fun k => { k with waits := if head then e :: k.waits else k.waits ++ [e] }) s

/-- Removes entries from every wait list; the entries behind keep their order (R13). -/
def dropWaits (p : Access → Bool) (s : State) : State :=
  { s with stackRecs := s.stackRecs.map fun k => { k with waits := k.waits.filter fun e => !p e } }

/-- The stack at whose wait list a robot stands. -/
def waitingAt (s : State) (robot : Nat) : Option Nat :=
  stackIds.find? fun i => (getStack s i).waits.any fun e => e.robot == robot

/-- The holder of a stack and the robot's access-held stack are cleared (R8, R9, R11). -/
def clearAccess (i robot : Nat) (s : State) : State :=
  modRobot robot (fun c => { c with accessHeld := none }) (modStack i (fun k => { k with holder := none }) s)

/-- A release with reason NORMAL of whatever access a robot holds (R11). -/
def releaseAccess (robot : Nat) (s : State) : State :=
  match (getRobot s robot).bind Robot.accessHeld with
  | none => s
  | some i => arbiter i (clearAccess i robot s)

/-! ## Top reports -/

/-- What a top report does to one relay: a T_WAIT side whose resting bin is no longer on top enters T_BURIED, and a
T_BURIED side whose bin is on top enters T_WAIT (R51); a carried relay keeps its state (R66). -/
def Relay.onTopReport (tn : Tuning) (i : Nat) (k : StackRec) (r : Relay) : Relay :=
  if r.binding = some i ∧ !r.carried ∧ k.rests r.bin then
    if r.take.state = .wait ∧ !k.onTop r.bin then
      { r with take := { r.take with state := .buried, timer := startTimer tn r.timingSet (some .bury) } }
    else if r.take.state = .buried ∧ k.onTop r.bin then
      { r with take := { r.take with state := .wait, timer := startTimer tn r.timingSet (some .rest) } }
    else r
  else r

/-- The store reports a stack's new top to the Relay Table (R16). -/
def topReport (i : Nat) (s : State) : State :=
  { s with relays := s.relays.map (Relay.onTopReport s.tuning i (getStack s i)) }

end Sys2Proof.Machine
end

