-- ==== Sys2Proof/Machine/Placement.lean ====
section
/-!
DEFINITION. Placement (02_placement.md): the cost (R26 to R29), the candidates (R24, R25), the choice (R30), the
reservations (R6, R7), and the placement wait list with its retry (R34, R35).
-/

namespace Sys2Proof.Machine

/-! ## The cost -/

/-- The remaining time to a due tick, a past due giving 0; a bin with no due is the latest of all (R26). -/
def remaining (now : Tick) : Option Tick → Nat
  | some d => (ticksBetween now d).toNat
  | none => 2147483647

/-- What a placement request carries (02, HOP PLACEMENT and TARGET PLACEMENT). -/
structure PlaceRequest where
  bin : BinId
  due : Option Tick
  cls : Temp
  cell : Option (Nat × Nat)
  deriving DecidableEq, Repr

/-- The difference of two coordinates. -/
def absDiff (a b : Nat) : Nat := (a - b) + (b - a)

/-- The travel term: the Manhattan distance, or 0 from an unknown cell (R28). -/
def travelTerm (cell : Option (Nat × Nat)) (k : StackRec) : Nat :=
  match cell with
  | none => 0
  | some (gx, gy) => absDiff gx k.x + absDiff gy k.y

/-- The due ticks of the other bins on a stack that have one: resting bins with an owner and reservations with a tag
(R27). -/
def otherDues (s : State) (k : StackRec) (b : BinId) : List Tick :=
  (k.resting.filterMap fun e =>
      if e.bin = b then none else e.owner.bind fun t => (getRelay s t).map Relay.due)
    ++ k.pend.filterMap fun
      | .bin b' tag _ => if b' = b then none else tag.bind fun t => (getRelay s t).map Relay.due
      | .hold _ _ => none

/-- One earlier bin's share of the burial term: its gap, clamped at 4095, weighed and floored (R28); a bin that is not
earlier adds nothing (R27). -/
def burialShare (wb rn rb : Nat) : Nat := if rb < rn then min (rn - rb) 4095 * wb / 16 else 0

/-- The burial term of a stack (R28). -/
def burialTerm (s : State) (k : StackRec) (q : PlaceRequest) : Nat :=
  ((otherDues s k q.bin).map fun d => burialShare s.tuning.wb (remaining s.tick q.due) (remaining s.tick (some d))).sum

/-- The placement cost of a stack: the exact weighted sum, saturated at 65535 (R28, R29). -/
def placeCost (s : State) (k : StackRec) (q : PlaceRequest) : Nat :=
  min 65535 (s.tuning.wd * travelTerm q.cell k + burialTerm s k q + s.tuning.wf * (k.resting.length + k.pend.length + 1)
    + s.tuning.wz * (k.zone.warmer q.cls).toNat)

/-- The candidate of least cost, the lowest id among equals, of costs listed by ascending id (R30). -/
def leastCost (costs : List (Nat × Nat)) : Option (Nat × Nat) :=
  costs.foldl (fun best c => match best with
    | none => some c
    | some b => if c.2 < b.2 then some c else some b) none

/-- The choice among candidates: stack id and cost, or NONE (R23, R30). -/
def choose (s : State) (isCandidate : Nat → StackRec → Bool) (q : PlaceRequest) : Option (Nat × Nat) :=
  leastCost ((stackIds.filter fun i => isCandidate i (getStack s i)).map fun i => (i, placeCost s (getStack s i) q))

/-! ## Candidates -/

/-- A stack that could take a set-down at all: ACTIVE, not blocked, with room (R24, R25). -/
def StackRec.open (k : StackRec) : Bool := k.state == .active && !k.blocked && k.hasRoom

/-- The candidates of a HOP PLACEMENT (R24). -/
def hopCandidate (r : Relay) (i : Nat) (k : StackRec) : Bool :=
  k.open && k.joins r.giveDistrict r.takeDistrict && r.refused != some i

/-- HOP PLACEMENT for a relay's give side (R23, R44). -/
def hopPlacement (s : State) (r : Relay) : Option (Nat × Nat) :=
  choose s (hopCandidate r) { bin := r.bin, due := some r.due, cls := r.cls, cell := robotCell s r.give.robot }

/-- The candidates of a TARGET PLACEMENT (R25). -/
def targetCandidate (src : StackRec) (source : Nat) (excluded : Option Nat) (i : Nat) (k : StackRec) : Bool :=
  k.open && k.joins src.sideA src.sideB && i != source && excluded != some i

/-- The due and class of a moved bin: those of the relay that owns it, or none and AMBIENT for an orphan (R68, R82). -/
def movedDueClass (s : State) (owner : Option Tag) : Option Tick × Temp :=
  match owner.bind (getRelay s) with
  | some q => (some q.due, q.cls)
  | none => (none, .ambient)

/-- TARGET PLACEMENT for a bin dug out of a source by a robot (R25, R68). -/
def targetPlacement (s : State) (source : Nat) (excluded : Option Nat) (bin : BinId) (owner : Option Tag) (robot : Nat) :
    Option (Nat × Nat) :=
  choose s (targetCandidate (getStack s source) source excluded)
    { bin := bin, due := (movedDueClass s owner).1, cls := (movedDueClass s owner).2, cell := robotCell s (some robot) }

/-! ## Reservations -/

/-- The store makes a bin reservation at the tail of the pending list, or declines (R6). -/
def reserve (i : Nat) (bin : BinId) (tag : Option Tag) (district : Option Nat) (s : State) : Option State :=
  if (getStack s i).open then some (modStack i (fun k => { k with pend := k.pend ++ [.bin bin tag district] }) s)
  else none

/-- The store makes a blank hold at the tail of the pending list, or declines; blocked or not (R7). -/
def blankHold (i : Nat) (tag : Option Tag) (robot : Nat) (s : State) : Option State :=
  if (getStack s i).state = .active ∧ (getStack s i).hasRoom then
    some (modStack i (fun k => { k with pend := k.pend ++ [.hold tag robot] }) s)
  else none

/-- The first blank hold of a robot becomes the reservation of a bin, at its place, with its tag (R7). -/
def convertPend (robot : Nat) (bin : BinId) (district : Option Nat) : List PendEntry → List PendEntry
  | [] => []
  | .hold tag r :: rest =>
    if r = robot then .bin bin tag district :: rest else .hold tag r :: convertPend robot bin district rest
  | .bin b t d :: rest => .bin b t d :: convertPend robot bin district rest

/-- A blank hold is converted into a bin reservation (R7, R77). -/
def convertHold (i robot : Nat) (bin : BinId) (district : Option Nat) (s : State) : State :=
  modStack i (fun k => { k with pend := convertPend robot bin district k.pend }) s

/-! ## The take side's answer to a binding -/

/-- The taker is sent APPROACH to the bound stack (R42). -/
def approachTake (t : Tag) (i : Nat) (r : Relay) (s : State) : State :=
  match r.take.robot with
  | some robot => takeStep t robot .approach i 0 0#32 .approach s
  | none => s

/-- A taker in T_IDLE goes on to T_APPROACH when a stack is bound; with an end pending no step is opened (R42, R63). -/
def goOnIdle (t : Tag) (s : State) : State :=
  onRelay t (fun r s =>
    match r.binding with
    | some i => if r.take.state = .idle ∧ r.endPending = none then approachTake t i r s else s
    | none => s) s

/-- The take side acts on a binding that has been set, cleared or moved (R42). -/
def bindingChanged (t : Tag) (s : State) : State :=
  onRelay t (fun r s =>
    match r.take.state with
    | .idle => goOnIdle t s
    | .ready => goOnIdle t (enterTake t .idle s)
    | _ => s) s

/-- The hop's stack binding changes, and the take side acts on it (R42). -/
def setBinding (t : Tag) (b : Option Nat) (s : State) : State :=
  bindingChanged t (modRelay t (fun r => { r with binding := b }) s)

/-! ## Hop placement and the wait list -/

/-- A give side's reservation is MADE: the binding is set, the giver is sent APPROACH and the take side acts (R31,
R44). -/
def placed (t : Tag) (i : Nat) (r : Relay) (s : State) : State :=
  let s1 := modRelay t (fun q => { q with binding := some i }) s
  let s2 := match r.give.robot with
    | some robot => giveStep t robot .approach i 0 0#32 .approach s1
    | none => s1
  bindingChanged t s2

/-- A HOP PLACEMENT for a give side and the reservation that follows (R31, R35). None when NONE is answered; within one
event the store never declines the stack just chosen (log 21). -/
def tryPlace (t : Tag) (r : Relay) (s : State) : Option State :=
  match hopPlacement s r with
  | none => none
  | some (i, _) => (reserve i r.bin (some t) (some r.takeDistrict) s).map (placed t i r)

/-- A give side in G_PLACING asks for a placement; NONE enters the relay on the placement wait list (R31, R34, R44).
With an end pending no placement is asked for (R63). -/
def askPlacement (t : Tag) (s : State) : State :=
  onRelay t (fun r s =>
    if r.endPending.isSome then s
    else match tryPlace t r s with
      | some s' => s'
      | none => if s.placeWait.contains t then s else { s with placeWait := s.placeWait ++ [t] }) s

/-- A give side enters G_PLACING and asks for a placement (R44). -/
def enterPlacing (t : Tag) (s : State) : State := askPlacement t (enterGive t .placing s)

/-- One entry's turn in a retry: a stack found is reserved and the entry leaves the list (R35). -/
def retryOne (s : State) (t : Tag) : State :=
  match getRelay s t with
  | none => s
  | some r =>
    match tryPlace t r s with
    | some s' => { s' with placeWait := s'.placeWait.erase t }
    | none => s

/-- A retry of the placement wait list, once from head to tail (R35). -/
def retryPlacement (s : State) : State := s.placeWait.foldl retryOne s

/-- After an event that frees room, changes the state or changes the blocked flag of a stack: the arbiter runs, and the
placement wait list is retried (R4, R14). -/
def stackChanged (i : Nat) (s : State) : State := retryPlacement (arbiter i s)

/-- A bin reservation is cancelled wherever it stands in the stack's list, and the room is handed on (R6). -/
def cancelReservation (i : Nat) (bin : BinId) (s : State) : State :=
  if (getStack s i).reserved bin then
    stackChanged i (modStack i (fun k => { k with pend := k.pend.eraseP (PendEntry.isFor bin) }) s)
  else s

/-- A blank hold is dropped, and the room is handed on (R7). -/
def dropHold (i robot : Nat) (s : State) : State :=
  if (getStack s i).pend.any (PendEntry.isHoldOf robot) then
    stackChanged i (modStack i (fun k => { k with pend := k.pend.eraseP (PendEntry.isHoldOf robot) }) s)
  else s

end Sys2Proof.Machine
end

