-- ==== Sys2Proof/Machine/Exposure.lean ====
section
/-!
DEFINITION. The exposure clock (07_step_timers_and_exposure.md, R124 to R126) and the Load Checker
(08_load_verification.md, R129 to R134).
-/

namespace Sys2Proof.Machine

/-! ## The exposure clock -/

/-- The bin of a relay is out of its zone: held by a robot, or resting on a warmer stack (R124). -/
def outOfZone (s : State) (r : Relay) : Bool :=
  (holdingRobot s r.bin).isSome || (restingStack s r.bin).any fun i => (getStack s i).zone.warmer r.cls

/-- What an interval has charged up to now: the signed difference, counted as 0 if negative (R125). -/
def charged (now : Tick) : Option Tick → Nat
  | some start => (ticksBetween start now).toNat
  | none => 0

/-- A clock expires: used is the budget, EXPOSED is set and a notice is appended (R126 steps 1 to 3). -/
def expireClock (t : Tag) (s : State) : State :=
  onRelay t (fun r s =>
    let s1 := modRelay t (fun r => { r with
      clock := some { used := r.budget, opened := none, expired := true, due := false }
      flags := { r.flags with exposed := true } }) s
    notify (exposedNotice s1.tick t ((holdingRobot s1 r.bin).getD 0) (restingStack s1 r.bin) r.bin r.budget) s1) s

/-- A change of the bin's situation is handed to the Timer Unit (R125). An expiry that it brings about is left for the
end of the running rule (R126), except at the teardown, where it is not handed on. -/
def situationChanged (t : Tag) (teardown : Bool) (s : State) : State :=
  onRelay t (fun r s =>
    match r.clock with
    | none => s
    | some c =>
      if c.expired then s
      else
        let used := min r.budget (c.used + charged s.tick c.opened)
        if used = r.budget then
          let s1 := expireClock t s
          if teardown then s1 else { s1 with deferred := s1.deferred ++ [t] }
        else
          modRelay t (fun r => { r with clock := some {
            used := used
            opened := if !teardown && outOfZone s r then some s.tick else none
            expired := false, due := false } }) s) s

/-! ## Load verification -/

/-- The raw reading of a load field and whether it is over-range (R129). -/
def rawReading (f : LoadFormat) (field : Nat) : Option Nat :=
  match f with
  | .right => if field < 4095 then some field else none
  | .left => if field / 16 < 4095 then some (field / 16) else none

/-- A raw reading in grams (R130). -/
def gramsOf (offset gain raw : Nat) : Nat := (raw - offset) * gain / 256

/-- The weight that a robot's load field gives, or none when it is over-range (R129, R130). -/
def weigh (c : Robot) (field : Nat) : Option Nat := (rawReading c.format field).map (gramsOf c.offset c.gain)

/-- The tolerance for a reference (R132). -/
def tolerance (tn : Tuning) (ref : Nat) : Nat := tn.tolAbs + ref * tn.tolRel / 1024

/-- A weight matches a reference (R132). -/
def weightMatches (tn : Tuning) (w ref : Nat) : Bool := absDiff w ref ≤ tolerance tn ref

/-- The results of a load check (R133). -/
inductive LoadResult where
  | overRange
  | first (grams : Nat)
  | pass
  | mismatch (grams : Nat)
  deriving DecidableEq, Repr

/-- The load check of a reading against a relay's reference (R131 to R133). -/
def loadCheck (tn : Tuning) (c : Robot) (ref : Option Nat) (field : Nat) : LoadResult :=
  match weigh c field, ref with
  | none, _ => .overRange
  | some w, none => .first w
  | some w, some r => if weightMatches tn w r then .pass else .mismatch w

/-- A shuffle lift's lenient check against the relay that owns the bin: it sets flags and nothing else; a relay without
a reference gets no check and no reference (R70, R134). -/
def shuffleLoad (q : Tag) (c : Robot) (field : Nat) (s : State) : State :=
  onRelay q (fun r s =>
    match r.reference with
    | none => if (weigh c field).isNone then setFlag q (fun f => { f with overRange := true }) s else s
    | some _ =>
      match loadCheck s.tuning c r.reference field with
      | .overRange => setFlag q (fun f => { f with overRange := true }) s
      | .mismatch _ => setFlag q (fun f => { f with loadFlag := true }) s
      | .first _ | .pass => s) s

end Sys2Proof.Machine
end

