-- ==== Sys2Proof/Machine/Ending.lean ====
section
/-!
DEFINITION. Lending and release (R103, R104), and the ending of relays: open steps (R93, R81), the pending end (R63), the
teardown (R64), the outcome (R65, R98) and the action of an exposure expiry (R127).
-/

namespace Sys2Proof.Machine

/-! ## Lending and release -/

/-- A robot is lent to a relay (R103). -/
def lend (r : Nat) (t : Tag) (s : State) : State :=
  modRobot r (fun c => { c with lentTo := .relay t, state := .lent }) s

/-- A lent robot is released as part of a teardown: a RELEASE frame, the held bin cleared, FREE (R104, R64). -/
def releaseRobot (r : Nat) (s : State) : State :=
  modRobot r (fun c => { c with heldBin := none, lentTo := .none, state := .free }) (queueRelease r s)

/-- A lent robot is released outside a teardown, with its RELEASED notice (R104). -/
def releaseWithNotice (r : Nat) (t : Tag) (side : Side) (s : State) : State :=
  let carried := ((getRobot s r).bind Robot.heldBin).getD 0#32
  notify (releasedNotice s.tick t r carried side) (releaseRobot r s)

/-- A robot is unbound from its relay: lent-to none, held bin cleared, its state kept (R111, R64). -/
def unbind (r : Nat) (s : State) : State :=
  modRobot r (fun c => { c with lentTo := .none, heldBin := none }) s

/-- A robot is lent to a relay (or FAULTED and still bound to it). -/
def boundTo (s : State) (t : Tag) (r : Nat) : Bool := (getRobot s r).any fun c => c.lentTo == .relay t

/-- A robot of a relay at the teardown: unbound when FAULTED, released otherwise (R64 step 5). -/
def letGo (t : Tag) (s : State) (r : Nat) : State :=
  match getRobot s r with
  | none => s
  | some c =>
    if c.lentTo = .relay t then if c.state = .faulted then unbind r s else releaseRobot r s
    else s

/-! ## Open steps -/

/-- A robot serving a side has an open step (R93). -/
def robotStepOpen (s : State) (r : Option Nat) : Bool := ((r.bind (getRobot s)).bind Robot.step).isSome

/-- A step of one of the relay's own sides is open, its own shuffle included (R93, R81). -/
def sidesOpen (s : State) (r : Relay) : Bool :=
  robotStepOpen s r.give.robot || robotStepOpen s r.take.robot || r.take.state.isShuffle

/-- The relay's bin is in a shuffle by another relay's taker (R81); a relay that claims an orphan during the shuffle lift is
the shuffle's moved relay from its claim on (log 46). -/
def inShuffle (s : State) (t : Tag) : Bool :=
  s.relays.any fun p => p.shuffle.any fun sh => sh.movedRelay == some t

/-- A step of the relay is open (R93). -/
def stepOpen (s : State) (r : Relay) : Bool := sidesOpen s r || inShuffle s r.tag

/-! ## The teardown -/

/-- The final place of a relay's outcome, read before robots are released (R98). -/
def finalPlace (s : State) (r : Relay) (code : Code) : Place :=
  match restingStack s r.bin, holdingRobot s r.bin with
  | some i, _ => .stack i
  | none, some h => .robot h
  | none, none =>
    if code = .stackLost then .none
    else match r.lastHolder with
      | some h => .robot h
      | none => .none

/-- Removes a relay's entries from every wait list and from the placement wait list (R63, R64). A shuffler's SHUFFLE_SET
entry stays while its shuffle runs on under a pending end (R81). -/
def dropRelayWaits (t : Tag) (keepShuffle : Bool) (s : State) : State :=
  let s1 := dropWaits (fun e => e.tag == t && !(keepShuffle && e.purpose == .shuffleSet)) s
  { s1 with placeWait := s1.placeWait.erase t }

/-- The stack on which a relay's own bin reservation stands. -/
def reservationStack (s : State) (r : Relay) : Option Nat :=
  stackIds.find? fun i => (getStack s i).pend.any fun
    | .bin b tag _ => b == r.bin && tag == some r.tag
    | .hold _ _ => false

/-- The relay's bin reservation is cancelled wherever it stands (R64 step 3). -/
def cancelOwnReservation (r : Relay) (s : State) : State :=
  match reservationStack s r with
  | some i => cancelReservation i r.bin s
  | none => s

/-- A resting bin of the relay becomes an orphan at its position (R64 step 4). -/
def orphanBin (t : Tag) (s : State) : State :=
  { s with stackRecs := s.stackRecs.map fun k => { k with
      resting := k.resting.map fun e => if e.owner = some t then { e with owner := none, bound := none } else e } }

/-- The robots of the current hop, the give side's first. -/
def Relay.hopRobots (r : Relay) : List Nat := r.give.robot.toList ++ r.take.robot.toList

/-- The named takers of the hops after the current one, in hop order (R64 step 6). -/
def Relay.laterTakers (r : Relay) : List Nat := (r.takers.drop r.hop).filterMap id

/-- The record is removed (R65). -/
def removeRelay (t : Tag) (s : State) : State := { s with relays := s.relays.filter fun r => r.tag != t }

/-- The teardown of a relay with its outcome (R64, R65). -/
def teardown (t : Tag) (code : Code) (s : State) : State :=
  onRelay t (fun r s =>
    let place := finalPlace s r code
    let s := r.hopRobots.foldl (fun s h => if boundTo s t h then releaseAccess h s else s) s
    let s := dropRelayWaits t false s
    let s := cancelOwnReservation r s
    let s := orphanBin t s
    let s := r.hopRobots.foldl (letGo t) s
    let s := r.laterTakers.foldl (letGo t) s
    let s := situationChanged t true s
    let flags := ((getRelay s t).map Relay.flags).getD r.flags
    removeRelay t
      (endRelaySlot r.slot t r.bin
        { code := code, endTick := s.tick, hop := r.hop, place := place, flags := flags } s)) s

/-! ## Deciding an end -/

/-- An end of a relay is decided (R63): at once when no step of it is open, else pending, with its wait entries removed.
A pending end stands against a further cause. -/
def decideEnd (t : Tag) (code : Code) (s : State) : State :=
  onRelay t (fun r s =>
    if r.endPending.isSome then s
    else if stepOpen s r then
      dropRelayWaits t true (modRelay t (fun r => { r with endPending := some code }) s)
    else teardown t code s) s

/-- When no step of a relay with a pending end remains open, it ends with the pending outcome (R63). -/
def settle (t : Tag) (s : State) : State :=
  onRelay t (fun r s =>
    match r.endPending with
    | some code => if stepOpen s r then s else teardown t code s
    | none => s) s

/-- An end is decided, or a pending one comes due because the relay's last open step has just closed (R63). -/
def endRelay (t : Tag) (code : Code) (s : State) : State := settle t (decideEnd t code s)

/-- An exposure expiry acts on its relay: with ABORT_ON_EXPOSURE and no end pending the relay ends EXPOSED, at once or
pending (R127). -/
def expiryActs (t : Tag) (s : State) : State :=
  onRelay t (fun r s => if r.abortOnExposure then endRelay t .exposed s else s) s

/-- The expiries handed over during a rule act once it has finished all its steps (R126). -/
def actDeferred (s : State) : State := s.deferred.foldl (fun s t => expiryActs t s) { s with deferred := [] }

end Sys2Proof.Machine
end

