-- ==== Sys2Proof/Machine/Shuffle.lean ====
section
/-!
DEFINITION. The course of a shuffle (04_burial_and_shuffling.md): the join of a taker (R50, R51), the search for a
target (R76, R80), the way back through the blank hold (R77), the failure (R78), the return of the shuffler (R74), the
start (R68, R69) and the move of the moved bin's own taker (R73).
-/

namespace Sys2Proof.Machine

/-- A taker joins a stack's wait list for its relay's bin: T_WAIT or T_BURIED by the top when it is JOINED, T_READY
when it is DECLINED (R50). With an end pending no join is sent (R63). -/
def takeJoin (t : Tag) (i : Nat) (head : Bool) (s : State) : State :=
  onRelay t (fun r s =>
    match r.take.robot with
    | none => s
    | some robot =>
      let e : Access := { robot := robot, purpose := .take, tag := t, bin := r.bin }
      if r.endPending.isNone && joinAccepted s i e then
        arbiter i (enterTake t (if (getStack s i).onTop r.bin then .wait else .buried) (joinWaits i head e s))
      else enterTake t .ready s) s

/-- Runs a rule on a relay's shuffle part and shuffler. -/
def onShuffle (p : Tag) (f : Relay → Shuffle → Nat → State → State) (s : State) : State :=
  onRelay p (fun r s =>
    match r.shuffle, r.take.robot with
    | some sh, some robot => f r sh robot s
    | _, _ => s) s

/-- Changes a relay's shuffle part. -/
def modShuffle (p : Tag) (f : Shuffle → Shuffle) (s : State) : State :=
  modRelay p (fun r => { r with shuffle := r.shuffle.map f }) s

/-- The shuffle part is cleared (R67). -/
def clearShuffle (p : Tag) (s : State) : State := modRelay p (fun r => { r with shuffle := none }) s

/-- The moved bin's relay is marked or unmarked carried-by-shuffle (R67); an orphan has no relay. -/
def setCarried (q : Option Tag) (c : Bool) (s : State) : State :=
  match q with
  | some t => modRelay t (fun r => { r with carried := c }) s
  | none => s

/-- Runs a rule on the moved bin's relay; an orphan has none (R82). -/
def onMoved (q : Option Tag) (f : Tag → State → State) (s : State) : State :=
  match q with
  | some t => f t s
  | none => s

/-- The bin reservation of a bin is cancelled wherever it stands. -/
def cancelBin (bin : BinId) (s : State) : State :=
  match stackIds.find? fun i => (getStack s i).reserved bin with
  | some i => cancelReservation i bin s
  | none => s

/-- A shuffle fails (R78): access and entry given up, reservation and hold dropped, the moved bin's relay ends, and the
digging relay ends TAKE_FAILED or with its pending outcome. -/
def failShuffle (p : Tag) (code : Code) (s : State) : State :=
  onShuffle p (fun _ sh robot s =>
    let s := dropWaits (fun e => e.robot == robot) (releaseAccess robot s)
    let s := dropHold sh.source robot (cancelBin sh.movedBin s)
    let s := setCarried sh.movedRelay false (enterTake p .done (clearShuffle p s))
    endRelay p .takeFailed (onMoved sh.movedRelay (fun q => endRelay q code) s)) s

/-- The shuffler joins a stack's wait list to set its bin down there (R70, R76, R77, R80). -/
def joinShuffleSet (p : Tag) (i : Nat) (sh : Shuffle) (robot : Nat) (s : State) : Option State :=
  let e : Access := { robot := robot, purpose := .shuffleSet, tag := p, bin := sh.movedBin }
  if joinAccepted s i e then some (arbiter i (enterTake p .shufWait (joinWaits i false e s))) else none

/-- The bin goes back onto its source through the converted hold (R77); a declined join fails the shuffle. -/
def goBack (p : Tag) (s : State) : State :=
  onShuffle p (fun _ sh robot s =>
    let s := modShuffle p (fun sh => { sh with target := none, returning := true })
      (convertHold sh.source robot sh.movedBin sh.boundDistrict s)
    match joinShuffleSet p sh.source sh robot s with
    | some s' => s'
    | none => failShuffle p .giveFailed s) s

/-- A TARGET PLACEMENT for the moved bin and the reservation that follows (R32); none leaves no target. -/
def placeTarget (p : Tag) (s : State) : State :=
  onShuffle p (fun _ sh robot s =>
    match targetPlacement s sh.source sh.excluded sh.movedBin sh.movedRelay robot with
    | none => modShuffle p (fun sh => { sh with target := none }) s
    | some (j, _) =>
      match reserve j sh.movedBin sh.movedRelay sh.boundDistrict s with
      | some s' => modShuffle p (fun sh => { sh with target := some j }) s'
      | none => modShuffle p (fun sh => { sh with target := none }) s) s

/-- The target of a relay's shuffle. -/
def shuffleTarget (s : State) (p : Tag) : Option Nat :=
  ((getRelay s p).bind Relay.shuffle).bind Shuffle.target

/-- The target field is cleared and the lost stack becomes the excluded stack (R76, R80). -/
def excludeTarget (p : Tag) (j : Nat) (s : State) : State :=
  modShuffle p (fun sh => { sh with target := none, excluded := some j }) s

/-- The shuffler joins its target, or seeks another; with no target it goes back (R70, R76, R80). A target whose join is
declined is lost (R80); the bound on the tries stands for a search that ends at once (log 26). -/
def joinTarget : Nat → Tag → State → State
  | 0, p, s => goBack p s
  | n + 1, p, s =>
    onShuffle p (fun _ sh robot s =>
      match sh.target with
      | none => goBack p s
      | some j =>
        match joinShuffleSet p j sh robot s with
        | some s' => s'
        | none => joinTarget n p (placeTarget p (excludeTarget p j (cancelReservation j sh.movedBin s)))) s

/-- The join of a shuffler to its target, with tries enough for every stack. -/
def joinSomeTarget (p : Tag) (s : State) : State := joinTarget Config.stackCount p s

/-- A setback at a target (R76): the first seeks a new target, the second fails the shuffle. -/
def setback (p : Tag) (j : Nat) (s : State) : State :=
  onShuffle p (fun _ sh _ s =>
    let s := excludeTarget p j (cancelReservation j sh.movedBin s)
    if sh.setbacks = 0 then
      joinSomeTarget p (placeTarget p (modShuffle p (fun sh => { sh with setbacks := 1 }) s))
    else failShuffle p .giveFailed s) s

/-- A target is lost by its entry into SUSPECT (R80). -/
def lostTarget (p : Tag) (j : Nat) (s : State) : State :=
  onShuffle p (fun r _ _ s =>
    match r.take.state with
    | .shufLift => placeTarget p (excludeTarget p j s)
    | .shufWait => joinSomeTarget p (placeTarget p (excludeTarget p j s))
    | _ => s) s

/-- The shuffler returns as its relay's taker (R74). With an end pending it does not return, and the relay ends once no
step of it remains open. -/
def returnShuffler (p : Tag) (s : State) : State :=
  onShuffle p (fun r sh _ s =>
    let s := clearShuffle p s
    if r.endPending.isSome then settle p (enterTake p .done s)
    else if r.binding = some sh.source then
      if (getStack s sh.source).rests r.bin then takeJoin p sh.source true s else enterTake p .ready s
    else goOnIdle p (enterTake p .idle s)) s

/-- The moved bin's relay with a pending end and no other step open ends now (R72 step 5, R81). -/
def settleMoved (q : Tag) (s : State) : State :=
  onRelay q (fun r s =>
    match r.endPending with
    | some code => if sidesOpen s r then s else teardown q code s
    | none => s) s

/-- The moved bin's own taker acts on the bin's new stack (R73). -/
def moveTaker (q : Tag) (source target : Nat) (s : State) : State :=
  onRelay q (fun r s =>
    match r.take.state, r.take.robot with
    | .wait, some robot =>
      if (getStack s source).waits.any fun e => e.robot == robot then
        takeJoin q target false (modStack source (fun k => { k with waits := k.waits.filter fun e => e.robot != robot }) s)
      else s
    | .ready, _ => goOnIdle q (enterTake q .idle s)
    | _, _ => s) s

/-- A shuffle is started on the top bin of the bound stack (R68, R69): target reservation and blank hold are made
together, the shuffle part is written and the taker's entry is changed in place. None when no shuffle starts. -/
def startShuffle (p : Tag) (s : State) : Option State :=
  match getRelay s p with
  | none => none
  | some r =>
    match r.binding, r.take.robot with
    | some i, some robot =>
      if r.take.state = .buried ∧ r.allowShuffle ∧ r.endPending = none ∧ (getStack s i).state = .active
          ∧ (getStack s i).holder = none then
        match (getStack s i).top with
        | none => none
        | some x =>
          match targetPlacement s i none x.bin x.owner robot with
          | none => none
          | some (j, _) =>
            let d := (getStack s i).districtOf x.bound
            match (reserve j x.bin x.owner d s).bind (blankHold i x.owner robot) with
            | none => none
            | some s1 =>
              let s2 := modRelay p (fun r => { r with shuffle := some {
                movedBin := x.bin, movedRelay := x.owner, boundDistrict := d, source := i, target := some j,
                excluded := none, setbacks := 0, returning := false } }) s1
              some (arbiter i (modStack i (fun k => { k with waits := k.waits.map fun e =>
                if e.robot = robot then { e with purpose := .shuffleLift, bin := x.bin } else e }) s2))
      else none
    | _, _ => none

end Sys2Proof.Machine
end

