-- ==== Sys2Proof/Machine/Suspect.lean ====
section
/-!
DEFINITION. Entry into SUSPECT (R17, R18) with what it hands back (R46, R56, R80), the blocked flag (R3, R151), and the
completions of set-downs and lifts with their level check (R8, R9, R10).
-/

namespace Sys2Proof.Machine

/-! ## Hand-backs -/

/-- A give side loses its reservation to a stack entering SUSPECT (R46). A side in G_SETTING is ending and is not
reached; with an end pending no placement is asked for (R63). -/
def giveReservationLost (t : Tag) (i : Nat) (s : State) : State :=
  onRelay t (fun r s =>
    if r.binding = some i then
      match r.give.state with
      | .approach => setBinding t none (modRelay t (fun r => { r with refused := some i }) s)
      | .wait => enterPlacing t (setBinding t none (modRelay t (fun r => { r with refused := some i }) s))
      | .placing | .setting | .done => s
    else s) s

/-- The relay whose shuffle moves a bin. -/
def shufflingRelay (s : State) (bin : BinId) : Option Tag :=
  (s.relays.find? fun r => r.shuffle.any fun sh => sh.movedBin == bin).map Relay.tag

/-- A shuffle loses the moved bin's reservation to a stack entering SUSPECT: a target is lost, a source fails the
shuffle (R80). -/
def shuffleReservationLost (p : Tag) (i : Nat) (s : State) : State :=
  onShuffle p (fun r sh _ s =>
    if sh.target = some i then lostTarget p i s
    else if sh.returning ∧ sh.source = i ∧ r.take.state = .shufWait then failShuffle p .giveFailed s
    else s) s

/-- One cancelled reservation is handed to the Relay Table with this stack as the refused stack (R18 step 3). -/
def handBack (i : Nat) (s : State) (e : PendEntry) : State :=
  match e with
  | .hold _ _ => s
  | .bin b tag _ =>
    match shufflingRelay s b with
    | some p => shuffleReservationLost p i s
    | none =>
      match tag with
      | some t => giveReservationLost t i s
      | none => s

/-- One removed wait entry is handed to the Relay Table: a taker whose bin rests on the stack joins again at once
(R18 step 4, R56). -/
def waitHandBack (i : Nat) (s : State) (e : Access) : State :=
  if e.purpose = .take then
    onRelay e.tag (fun r s =>
      if r.take.robot = some e.robot ∧ (r.take.state = .wait ∨ r.take.state = .buried) then
        takeJoin e.tag i false (enterTake e.tag .ready s)
      else s) s
  else s

/-! ## Entry into SUSPECT -/

/-- The bin of a holder that is setting down and still holds access: its reservation is kept (R18 step 3). -/
def keptBin (k : StackRec) : Option BinId :=
  match k.holder with
  | some h => if h.purpose.isSet then some h.bin else none
  | none => none

/-- A reservation that the entry into SUSPECT cancels: a bin reservation other than the kept one (R18 step 3). -/
def cancelled (k : StackRec) : PendEntry → Bool
  | .bin b _ _ => keptBin k != some b
  | .hold _ _ => false

/-- What the store does on entry into SUSPECT (R18), in order: state, notice, reservations, wait list, retry. -/
def enterSuspect (i : Nat) (c : Cause) (tag : Tag) (robot : Nat) (bin : BinId) (s : State) : State :=
  let s := modStack i (fun k => { k with state := .suspect }) s
  let s := notify (suspectNotice s.tick tag robot i bin c) s
  let gone := (getStack s i).pend.filter (cancelled (getStack s i))
  let s := modStack i (fun k => { k with pend := k.pend.filter fun e => !cancelled k e }) s
  let s := gone.foldl (handBack i) s
  let waiting := (getStack s i).waits
  let s := modStack i (fun k => { k with waits := [] }) s
  let s := waiting.foldl (waitHandBack i) s
  retryPlacement s

/-- A suspect cause reaches a stack: only an ACTIVE stack enters SUSPECT (R17). -/
def suspectCause (i : Nat) (c : Cause) (tag : Tag) (robot : Nat) (bin : BinId) (s : State) : State :=
  if (getStack s i).state = .active then enterSuspect i c tag robot bin s else s

/-- A release with reason LOST: the holder is cleared in the event in which the stack enters SUSPECT (R11). -/
def loseAccess (i robot : Nat) (c : Cause) (s : State) : State :=
  match (getStack s i).holder with
  | some h => suspectCause i c h.tag h.robot h.bin (clearAccess i robot s)
  | none => clearAccess i robot s

/-- The overfill test of R3: an ACTIVE stack that is blocked and has room enters SUSPECT with cause OVERFILL. -/
def overfillTest (i : Nat) (s : State) : State :=
  if (getStack s i).blocked && (getStack s i).hasRoom then suspectCause i .overfill 0#32 0 0#32 s else s

/-- The overfill line of a stack rises (R3, R151). -/
def overfillRise (i : Nat) (s : State) : State :=
  stackChanged i (overfillTest i (modStack i (fun k => { k with blocked := true }) s))

/-- The overfill line of a stack falls, or lets go of the stack (R3, R151, R156). -/
def overfillFall (i : Nat) (s : State) : State :=
  stackChanged i (modStack i (fun k => { k with blocked := false }) s)

/-! ## Completions -/

/-- The level check of a completion (R10). -/
def levelCheck (i sensed recorded : Nat) (tag : Tag) (robot : Nat) (bin : BinId) (s : State) : State :=
  if sensed = recorded then s else suspectCause i .level tag robot bin s

/-- The last step of a completion: the top report, the arbiter and the hand-on (R8, R9, R16). -/
def reportAndHandOn (i : Nat) (s : State) : State := stackChanged i (topReport i s)

/-- The robot is the stack's access holder with a purpose that fits (R8, R9). -/
def holds (k : StackRec) (robot : Nat) (setting : Bool) : Bool :=
  k.holder.any fun h => h.robot == robot && h.purpose.isSet == setting

/-- The robot is the stack's access holder with a purpose of setting down, and the bin's reservation stands there (R8). -/
def setsDown (k : StackRec) (robot : Nat) (bin : BinId) : Bool := holds k robot true && k.reserved bin

/-- The resting entry that a set-down makes of the bin's reservation (R8 step 2). -/
def restEntryOf (k : StackRec) (bin : BinId) : RestEntry :=
  match k.pend.find? (PendEntry.isFor bin) with
  | some (.bin _ tag d) => { bin := bin, owner := tag, bound := d.bind k.facing }
  | _ => { bin := bin, owner := none, bound := none }

/-- A completed set-down, in the order of R8. -/
def recordSet (i robot sensed : Nat) (bin : BinId) (tag : Tag) (s : State) : State :=
  let s := modStack i (fun k => { k with
    pend := k.pend.eraseP (PendEntry.isFor bin), resting := k.resting ++ [restEntryOf k bin] }) s
  let s := clearAccess i robot (modRobot robot (fun c => { c with heldBin := none }) s)
  let s := levelCheck i sensed ((getStack s i).resting.length - 1) tag robot bin s
  reportAndHandOn i s

/-- Steps 1 to 4 of R9: the top entry is popped into the lifting robot's held-bin field, access is cleared and the level
is checked; the owner's last holder becomes the robot (R85). -/
def recordLift (i robot sensed : Nat) (tag : Tag) (top : RestEntry) (s : State) : State :=
  let s := modStack i (fun k => { k with resting := k.resting.dropLast }) s
  let s := modRobot robot (fun c => { c with heldBin := some top.bin }) s
  let s := onMoved top.owner (fun q => modRelay q fun r => { r with lastHolder := some robot }) s
  let s := clearAccess i robot s
  levelCheck i sensed (getStack s i).resting.length tag robot top.bin s

end Sys2Proof.Machine
end

