-- ==== Sys2Proof/Machine/Hops.lean ====
section
/-!
DEFINITION. The course of a hop: its start (R40, R41), the draw from standby (R108), the handing on and delivery (R57,
R58), and the sides' answers to their reports (R45, R48, R49, R50, R53, R54, R55).
-/

namespace Sys2Proof.Machine

/-! ## Filling the take side -/

/-- A taker is given to a take side, which enters T_IDLE and goes on when a stack is bound (R41). -/
def assignTaker (t : Tag) (robot : Nat) (s : State) : State :=
  goOnIdle t (enterTake t .idle (modRelay t (fun r => { r with take := { r.take with robot := some robot } }) s))

/-- The head of a district's standby queue leaves it, is lent to a relay and takes its side (R108). -/
def lendFromQueue (t : Tag) (d robot : Nat) (s : State) : State :=
  assignTaker t robot (lend robot t (modQueue d (fun q => q.drop 1) s))

/-- A take side that has become T_UNASSIGNED draws from its district's queue; with an end pending it is not filled
(R41, R63, R108). -/
def drawStandby (t : Tag) (s : State) : State :=
  onRelay t (fun r s =>
    if r.endPending.isSome then s
    else match getQueue s r.takeDistrict with
      | [] => s
      | robot :: _ => lendFromQueue t r.takeDistrict robot s) s

/-- A take side loses its robot and enters T_UNASSIGNED, and the hop's named taker becomes ANY (R54, R61, R92). -/
def unassignTake (t : Tag) (s : State) : State :=
  onRelay t (fun r s =>
    takerToAny t r.hop (enterTake t .unassigned
      (modRelay t (fun r => { r with take := { r.take with robot := none, stepStack := none } }) s))) s

/-- The relays whose take side waits for a robot of a district, in hop-start order (R41, R108). -/
def waitingTake (s : State) (d : Nat) : Option Tag :=
  (s.relays.find? fun r => r.take.state == .unassigned && r.takeDistrict == d && r.endPending.isNone).map Relay.tag

/-- A robot has joined a district's queue: its head is lent to the earliest waiting side while both exist (R108). -/
def fillFromQueue : Nat → Nat → State → State
  | 0, _, s => s
  | n + 1, d, s =>
    match waitingTake s d, getQueue s d with
    | some t, robot :: _ => fillFromQueue n d (lendFromQueue t d robot s)
    | _, _ => s

/-! ## Hop start, handing on and delivery -/

/-- The take side at a hop start, before it is filled: no robot, no step, no timer. -/
def emptyTake : TakeSide := { state := .unassigned, robot := none, stepStack := none, timer := none }

/-- A relay's record moves to the tail of the hop-start order (R84). -/
def toTail (t : Tag) (s : State) : State :=
  { s with relays := s.relays.filter (fun r => r.tag != t) ++ s.relays.filter fun r => r.tag == t }

/-- The take side of a starting hop is filled from the named taker, or from standby for ANY (R41). -/
def fillTake (t : Tag) (s : State) : State :=
  onRelay t (fun r s =>
    match (r.takers[r.hop - 1]?).join with
    | some robot => assignTaker t robot s
    | none => drawStandby t (enterTake t .unassigned s)) s

/-- Hop k starts with its giver, or with none on the origin stack (R40): the give side first, then the take side. -/
def startHop (t : Tag) (k : Nat) (giver : Option Nat) (binding : Option Nat) (s : State) : State :=
  let s := modRelay t (fun r => { r with
    hop := k, binding := binding, refused := none, giveRefusals := 0, liftRefusals := 0, take := emptyTake
    give := { state := .done, robot := giver, stepStack := none, timer := none } }) s
  fillTake t (if giver.isSome then enterPlacing t s else s)

/-- A take side that has entered T_DONE hands the hop on, delivers the bin, or lets a pending end come due (R53, R57,
R58). -/
def passOn (t : Tag) (s : State) : State :=
  onRelay t (fun r s =>
    if r.endPending.isSome then settle t s
    else if r.hop < r.hops then startHop t (r.hop + 1) r.take.robot none (toTail t s)
    else endRelay t .delivered s) s

/-! ## The give side's reports -/

/-- ARRIVED closes the giver's APPROACH at a stack (R45). -/
def giveArrived (t : Tag) (i robot : Nat) (s : State) : State :=
  onRelay t (fun r s =>
    if r.binding = some i then
      let e : Access := { robot := robot, purpose := .give, tag := t, bin := r.bin }
      if r.endPending.isSome then s
      else if joinAccepted s i e then arbiter i (enterGive t .wait (joinWaits i false e s))
      else
        enterPlacing t (setBinding t none (modRelay t (fun r => { r with refused := some i })
          (cancelReservation i r.bin s)))
    else enterPlacing t s) s

/-- A give refusal, of an APPROACH or a SET (R49 steps 2 to 4). With an end pending it is not counted (R63). -/
def giveRefusal (t : Tag) (i : Nat) (s : State) : State :=
  onRelay t (fun r s =>
    let s := setBinding t none (modRelay t (fun r => { r with refused := some i }) (cancelReservation i r.bin s))
    if r.endPending.isSome then enterPlacing t s
    else if r.giveRefusals = 0 then enterPlacing t (modRelay t (fun r => { r with giveRefusals := 1 }) s)
    else endRelay t .giveFailed s) s

/-- REFUSED closes the giver's APPROACH at a stack: a give refusal if the reservation stands (R46, R49). -/
def giveApproachRefused (t : Tag) (i : Nat) (s : State) : State :=
  onRelay t (fun r s => if r.binding = some i then giveRefusal t i s else enterPlacing t s) s

/-- REFUSED closes the giver's SET: access is released and the refusal acts (R49). -/
def giveSetRefused (t : Tag) (i robot : Nat) (s : State) : State := giveRefusal t i (releaseAccess robot s)

/-- The giver is released after its set-down, unless an end is pending (R48 step 3). -/
def releaseGiver (t : Tag) (robot : Nat) (s : State) : State :=
  releaseWithNotice robot t .give (modRelay t (fun r => { r with give := { r.give with robot := none } }) s)

/-- SET_DONE closes the giver's SET (R48); one that the store does not record closes the step and does nothing else
(log 37). -/
def giveSetDone (t : Tag) (i robot sensed : Nat) (s : State) : State :=
  onRelay t (fun r s =>
    if setsDown (getStack s i) robot r.bin then
      let s := enterGive t .done (situationChanged t false (recordSet i robot sensed r.bin t s))
      onRelay t (fun r s =>
        if r.endPending.isSome then s
        else
          let s := releaseGiver t robot s
          if r.take.state = .ready ∧ r.binding = some i then takeJoin t i false s else s) s
    else s) s

/-! ## The take side's reports -/

/-- ARRIVED closes the taker's APPROACH at a stack (R50). With an end pending no join is sent and no step opened. -/
def takeArrived (t : Tag) (i : Nat) (s : State) : State :=
  onRelay t (fun r s =>
    match r.binding with
    | none => enterTake t .idle s
    | some j =>
      if j = i then if (getStack s i).rests r.bin then takeJoin t i false s else enterTake t .ready s
      else goOnIdle t (enterTake t .idle s)) s

/-- REFUSED closes the taker's APPROACH: the taker is released and the side draws from standby (R54). -/
def takeApproachRefused (t : Tag) (robot : Nat) (s : State) : State :=
  drawStandby t (unassignTake t (releaseWithNotice robot t .take s))

/-- The load check of a hop lift, and where the side goes (R53 step 3, R133, R135). -/
def hopLoad (t : Tag) (i : Nat) (c : Robot) (load : Nat) (s : State) : State :=
  onRelay t (fun r s =>
    match loadCheck s.tuning c r.reference load with
    | .overRange => enterTake t .done (setFlag t (fun f => { f with overRange := true }) s)
    | .first w => enterTake t .done (modRelay t (fun r => { r with reference := some w }) s)
    | .pass => enterTake t .done s
    | .mismatch w =>
      let s := setFlag t (fun f => { f with loadFlag := true }) s
      if r.strictLoad ∧ r.endPending = none then
        notify (queryNotice s.tick t c.id (some i) r.bin w) (enterTake t .query s)
      else enterTake t .done s) s

/-- A side in T_DONE passes the bin on; a side in T_QUERY waits (R53 step 4). -/
def passOnIfDone (t : Tag) (s : State) : State :=
  onRelay t (fun r s => if r.take.state = .done then passOn t s else s) s

/-- LIFT_DONE closes the taker's LIFT (R53). -/
def takeLiftDone (t : Tag) (i : Nat) (c : Robot) (sensed load : Nat) (s : State) : State :=
  match (getStack s i).top with
  | none => s
  | some x =>
    if holds (getStack s i) c.id false then
      passOnIfDone t (hopLoad t i c load (situationChanged t false
        (reportAndHandOn i (recordLift i c.id sensed t x s))))
    else s

/-- REFUSED closes the taker's LIFT (R55): the first in a hop sends it to the tail of the wait list, the second ends the
relay. With an end pending it is not counted (R63): no join is sent, and the side stays in T_LIFTING with its timer
stopped until the teardown, which follows when no step of the relay remains open (log 22). -/
def takeLiftRefused (t : Tag) (i robot : Nat) (s : State) : State :=
  onRelay t (fun r s =>
    if r.endPending.isSome then s
    else if r.liftRefusals = 0 then takeJoin t i false (modRelay t (fun r => { r with liftRefusals := 1 }) s)
    else endRelay t .takeFailed s) (releaseAccess robot s)

end Sys2Proof.Machine
end

