-- ==== Sys2Proof/Machine/Digging.lean ====
section
/-!
DEFINITION. The reports of a shuffling taker (R70, R72, R75, R76, R77).
-/

namespace Sys2Proof.Machine

/-- LIFT_DONE closes the shuffler's LIFT (R70). -/
def digLiftDone (p : Tag) (i : Nat) (c : Robot) (sensed load : Nat) (s : State) : State :=
  match (getStack s i).top with
  | none => s
  | some x =>
    if holds (getStack s i) c.id false then
      let s := recordLift i c.id sensed p x s
      let s := onMoved x.owner (fun q s =>
        shuffleLoad q c load (situationChanged q false
          (setFlag q (fun f => { f with shuffled := true }) (setCarried (some q) true s)))) s
      joinSomeTarget p (reportAndHandOn i s)
    else s

/-- REFUSED closes the shuffler's LIFT (R75): the bin was not moved, and the refusal counts as a lift refusal. -/
def digLiftRefused (p : Tag) (s : State) : State :=
  onShuffle p (fun r sh robot s =>
    let s := releaseAccess robot s
    let s := match sh.target with
      | some j => cancelReservation j sh.movedBin s
      | none => s
    let s := onMoved sh.movedRelay settle (enterTake p .done (clearShuffle p (dropHold sh.source robot s)))
    if r.endPending.isSome then settle p s
    else if r.liftRefusals = 0 then
      takeJoin p sh.source false (modRelay p (fun r => { r with liftRefusals := 1 }) s)
    else endRelay p .takeFailed s) s

/-- The set-down of the moved bin on its target (R72). -/
def setOnTarget (p : Tag) (i : Nat) (sh : Shuffle) (robot sensed : Nat) (s : State) : State :=
  let s := recordSet i robot sensed sh.movedBin p s
  let s := onMoved sh.movedRelay (fun q s =>
    situationChanged q false (modRelay q (fun r => { r with carried := false, binding := some i }) s)) s
  let s := notify (shuffleNotice s.tick (sh.movedRelay.getD 0#32) robot i sh.movedBin sh.source) s
  let s := dropHold sh.source robot s
  let s := onMoved sh.movedRelay (fun q s => moveTaker q sh.source i (settleMoved q s)) s
  returnShuffler p s

/-- The moved bin's taker when the bin has come to rest on its source again (R77). -/
def resumeTaker (q : Tag) (i : Nat) (s : State) : State :=
  onRelay q (fun r s =>
    if r.take.state = .ready ∧ r.binding = some i ∧ r.endPending = none then takeJoin q i false s else s) s

/-- The set-down of the moved bin back on its source (R77). -/
def setOnSource (p : Tag) (i : Nat) (sh : Shuffle) (robot sensed : Nat) (s : State) : State :=
  let s := recordSet i robot sensed sh.movedBin p s
  let s := onMoved sh.movedRelay (fun q s => situationChanged q false (setCarried (some q) false s)) s
  let s := onMoved sh.movedRelay (fun q s => resumeTaker q i (settleMoved q s)) s
  returnShuffler p s

/-- SET_DONE closes the shuffler's SET (R72, R77); one that the store does not record closes the step and does nothing
else (log 37). -/
def digSetDone (p : Tag) (i sensed : Nat) (s : State) : State :=
  onShuffle p (fun _ sh robot s =>
    if setsDown (getStack s i) robot sh.movedBin then
      if sh.returning then setOnSource p i sh robot sensed s else setOnTarget p i sh robot sensed s
    else s) s

/-- REFUSED closes the shuffler's SET: a setback at a target, a failure at the source (R76, R78). -/
def digSetRefused (p : Tag) (i : Nat) (s : State) : State :=
  onShuffle p (fun _ sh robot s =>
    if sh.returning then failShuffle p .giveFailed s else setback p i (releaseAccess robot s)) s

end Sys2Proof.Machine
end

