-- ==== Sys2Proof/Machine/Faults.lean ====
section
/-!
DEFINITION. Faults of robots (R109 to R113): the entry into FAULTED (R110), and what a fault or a limit does to the
relay of a robot, in a hop (R111) and in a shuffle (R79).
-/

namespace Sys2Proof.Machine

/-! ## Entry into FAULTED -/

/-- The cause with which a stack enters SUSPECT when its holder faults (R110 step 2). -/
def faultCause : Option Phase → Cause
  | some .giveAct => .giveTimeout
  | some .takeAct => .takeTimeout
  | _ => .fault

/-- Steps 1 to 5 of R110: the state, the lost access, the wait entry, the queue and the notice. The phase is that of the
limit, or none for a REPORT. -/
def faultRobot (robot : Nat) (p : Option Phase) (s : State) : State :=
  match getRobot s robot with
  | none => s
  | some c =>
    let tag : Tag := match c.lentTo with | .relay t => t | _ => 0#32
    let s := removeStepFrame robot (modRobot robot (fun c => { c with state := .faulted, step := none }) s)
    let s := match c.accessHeld with | some i => loseAccess i robot (faultCause p) s | none => s
    let s := dropWaits (fun e => e.robot == robot) s
    let s := if c.lentTo = .standby then
        modRobot robot (fun c => { c with lentTo := .none }) (modQueue c.district (fun q => q.erase robot) s)
      else s
    notify (robotFaultNotice s.tick tag robot c.accessHeld (c.heldBin.getD 0#32) p) s

/-! ## The relay of a robot that is lost -/

/-- The lost taker of a hop leaves its side, which draws again; the relay ends if its pending end now comes due (R61,
R111). -/
def takerLost (t : Tag) (robot : Nat) (s : State) : State :=
  settle t (drawStandby t (unbind robot (unassignTake t s)))

/-- A shuffler is lost (R79), whatever the cause: the target reservation, the unconverted hold and an orphan's own
reservation go, the shuffle part is cleared, the moved bin's relay ends ROBOT_LOST when the shuffler held the bin, and
the take side draws again. R79 gives no order among these: the model cancels and drops first, each with its retry, then ends
the moved bin's relay, then draws (log 51). After a limit the shuffler is unbound in the same event too (log 50). -/
def shufflerLost (p : Tag) (s : State) : State :=
  onShuffle p (fun r sh robot s =>
    let held := r.take.state != .shufLift
    let s := unassignTake p (clearShuffle p s)
    let s := match sh.target with
      | some j => cancelReservation j sh.movedBin s
      | none => s
    let s := if sh.returning then
        if sh.movedRelay.isNone then cancelReservation sh.source sh.movedBin s else s
      else dropHold sh.source robot s
    let s := setCarried sh.movedRelay false s
    let s := onMoved sh.movedRelay (fun q s => if held then endRelay q .robotLost s else settleMoved q s) s
    settle p (drawStandby p (unbind robot s))) s

/-- A named taker of a later hop is lost: its entry becomes ANY (R91, R92). -/
def laterTakerLost (t : Tag) (robot : Nat) (s : State) : State :=
  unbind robot (modRelay t (fun r => { r with
    takers := r.takers.take r.hop ++ (r.takers.drop r.hop).map fun k => if k = some robot then none else k }) s)

/-- A taker in T_DONE under a pending end is lost: before it has lifted the relay's bin, the hop's named taker becomes ANY
(R92); a taker that holds that bin has lifted it. -/
def doneTakerLost (t : Tag) (robot : Nat) (s : State) : State :=
  onRelay t (fun r s =>
    if (getRobot s robot).any fun c => c.heldBin == some r.bin then s else takerToAny t r.hop s) s

/-- A FAULT report handed to the Relay Table acts by the side the robot served (R111). The table has no row for a taker in
T_DONE, whose end is pending after its shuffle: as a giver in G_DONE, it stays with the relay until the teardown unbinds it
(log 27), and the hop's named taker becomes ANY when it has not lifted the relay's bin (R92). -/
def faultOnRelay (t : Tag) (robot : Nat) (s : State) : State :=
  onRelay t (fun r s =>
    if r.give.robot = some robot then
      if r.give.state = .done then settle t s
      else
        let stepped := r.give.stepStack.isSome
        endRelay t .robotLost (if stepped then closeSide t robot s else s)
    else if r.take.robot = some robot then
      match r.take.state with
      | .unassigned | .idle | .approach | .ready | .wait | .buried | .lifting => takerLost t robot s
      | .query => endRelay t .robotLost s
      | .shufLift | .shufWait | .shufSet => shufflerLost t s
      | .done => settle t (doneTakerLost t robot s)
    else laterTakerLost t robot s) s

/-- A FAULT report is applied to a declared robot that is not FAULTED (R109, R110, R145). -/
def applyFault (robot : Nat) (s : State) : State :=
  match getRobot s robot with
  | none => s
  | some c =>
    if c.state = .faulted then s
    else
      let s := faultRobot robot none s
      match c.lentTo with
      | .relay t => faultOnRelay t robot s
      | .standby | .none => s

end Sys2Proof.Machine
end

