-- ==== Sys2Proof/Machine/Timers.lean ====
section
/-!
DEFINITION. The tick (R115, R120, R122, R126, R146, R149, R163), the warns (R68, R123) and limits (R59 to R61, R79, R83,
R136) of the step timers, the expiry of an exposure clock (R126) and the silence limit (R146).

An expiry arises at a tick and is taken by the command of its own (log 5). A command for an expiry that has not arisen,
or whose timing is over, has no effect (R121).
-/

namespace Sys2Proof.Machine

/-! ## The tick -/

/-- A running timer's advance (R120): the count rises, the warn arises when it reaches a warn value below the limit, and
the limit stops the timer. -/
def Timer.advance (m : Timer) : Timer :=
  if !m.running || m.count = 65535 then m
  else
    let n := m.count + 1
    let warns := n = m.warn && 0 < m.warn && !m.warned && (m.limit = 0 || m.warn < m.limit)
    let limits := n = m.limit && 0 < m.limit
    { m with
      count := n, warned := m.warned || warns, warnDue := m.warnDue || warns
      limitDue := m.limitDue || limits, running := !limits }

/-- The tick at which an open interval uses up the budget (R126). -/
def Clock.expiryTick (c : Clock) (budget : Nat) : Option Tick :=
  c.opened.map fun start => start + BitVec.ofNat 32 (budget - c.used)

/-- A clock at an advance of the tick counter: its expiry arises at its expiry tick (R126). -/
def Clock.advance (now : Tick) (budget : Nat) (c : Clock) : Clock :=
  if c.expiryTick budget = some now then { c with due := true } else c

/-- A relay's timers and clock at an advance; service hold stops the timers and not the clock (R122, R126). -/
def Relay.advance (now : Tick) (hold : Bool) (r : Relay) : Relay :=
  { r with
    give := { r.give with timer := if hold then r.give.timer else r.give.timer.map Timer.advance }
    take := { r.take with timer := if hold then r.take.timer else r.take.timer.map Timer.advance }
    clock := r.clock.map (Clock.advance now r.budget) }

/-- The check time of a check code (R148). -/
def checkTime (code : Nat) : Nat := if code = 0 then 0 else 2 ^ (code - 1)

/-- A candidate's count at an advance; the change arises when it reaches the check time (R149). -/
def Line.advance (l : Line) : Line :=
  { l with candidate := l.candidate.map fun c =>
      if c.due then c else { c with count := c.count + 1, due := checkTime l.check ≤ c.count + 1 } }

/-- The silence count at an advance: it rises while the link is UP, and the limit is reached (R146, log 34). -/
def advanceSilence (s : State) : State :=
  if s.linkUp then
    { s with silence := min 255 (s.silence + 1)
             silenceDue := s.silenceDue || s.tuning.silenceLimit ≤ min 255 (s.silence + 1) }
  else s

/-- The poll count at an advance, in RUNNING (R163). -/
def advancePoll (s : State) : State :=
  match s.kept with
  | some k =>
    if s.device = .running then
      { s with pollCount := s.pollCount + 1, pollDue := s.pollDue || k.pollInterval ≤ s.pollCount + 1 }
    else s
  | none => s

/-- An advance of the tick counter (R115). -/
def advanceTick (s : State) : State :=
  advancePoll (advanceSilence { s with
    tick := s.tick + 1#32
    relays := s.relays.map (Relay.advance (s.tick + 1#32) s.hold)
    lines := s.lines.map Line.advance })

/-- TICK: the counter stands while the device is IDLE (R115). -/
def execTick (s : State) : Host.Outcome State Fault Refusal :=
  .next (if s.device = .idle then s else advanceTick s)

/-! ## Taking expiries -/

/-- The side's timer. -/
def Relay.timer (r : Relay) : Side → Option Timer
  | .give => r.give.timer
  | .take => r.take.timer

/-- Changes the side's timer. -/
def modTimer (t : Tag) (side : Side) (f : Timer → Timer) (s : State) : State :=
  modRelay t (fun r => match side with
    | .give => { r with give := { r.give with timer := r.give.timer.map f } }
    | .take => { r with take := { r.take with timer := r.take.timer.map f } }) s

/-- The side's robot (R123). -/
def Relay.sideRobot (r : Relay) : Side → Option Nat
  | .give => r.give.robot
  | .take => r.take.robot

/-- The side's step stack (R43). -/
def Relay.sideStack (r : Relay) : Side → Option Nat
  | .give => r.give.stepStack
  | .take => r.take.stepStack

/-- The stack that a LATE notice names (07, LATE). -/
def lateStack (s : State) (r : Relay) (side : Side) : Option Nat :=
  match r.sideStack side, (r.sideRobot side).bind (waitingAt s) with
  | some i, _ => some i
  | none, some i => some i
  | none, none => r.binding

/-- A warn acts: LATE is set and a LATE notice is appended (R123). -/
def actLate (t : Tag) (side : Side) (p : Phase) (s : State) : State :=
  onRelay t (fun r s =>
    let s := setFlag t (fun f => { f with late := true }) s
    notify (lateNotice s.tick t ((r.sideRobot side).getD 0) (lateStack s r side) r.bin p) s) s

/-- The phase of the side's running timing whose warn has arisen and is not yet taken (R121). -/
def warnPhase (s : State) (t : Tag) (side : Side) : Option Phase :=
  ((getRelay s t).bind fun r => r.timer side).bind fun m => if m.warnDue then some m.phase else none

/-- The limit of a phase of a side has arisen in the side's current timing and is not yet taken (R121). -/
def limitArisen (s : State) (t : Tag) (side : Side) (p : Phase) : Bool :=
  ((getRelay s t).bind fun r => r.timer side).any fun m => m.limitDue && m.phase == p

/-- A side's warn is taken. -/
def takeWarn (t : Tag) (side : Side) (s : State) : State := modTimer t side (fun m => { m with warnDue := false }) s

/-- A side's limit is taken (R121): the rule acts when the limit has arisen, with the expiries of its rule after it
(R126). -/
def takeLimit (t : Tag) (side : Side) (p : Phase) (f : State → State) (s : State) : State :=
  if limitArisen s t side p then
    actDeferred (f (modTimer t side (fun m => { m with limitDue := false }) s))
  else s

/-- STEP_WARN: the warn of any phase but BURY (R123). -/
def execStepWarn (t : Tag) (side : Side) (bus : Bus) (s : State) : Host.Outcome State Fault Refusal :=
  withBus bus (fun s =>
    match warnPhase s t side with
    | some p => if p = .bury then s else actLate t side p (takeWarn t side s)
    | none => s) s

/-- BURY_WARN: a shuffle is tried, and a warn that starts none sets LATE (R68, R123). -/
def execBuryWarn (t : Tag) (bus : Bus) (s : State) : Host.Outcome State Fault Refusal :=
  withBus bus (fun s =>
    if warnPhase s t .take = some .bury then
      let s := takeWarn t .take s
      match startShuffle t s with
      | some s' => actDeferred s'
      | none => actLate t .take .bury s
    else s) s

/-! ## Limits -/

/-- The limit of a phase that holds no step open ends the relay; it has no effect while an end is pending (R63). -/
def limitEnds (t : Tag) (code : Code) (s : State) : State :=
  onRelay t (fun r s => if r.endPending.isSome then s else endRelay t code s) s

/-- A limit faults the robot of a side, after the Relay Table has decided what it does (R60, R110). -/
def faultSide (t : Tag) (robot : Nat) (p : Phase) (s : State) : State :=
  settle t (closeSide t robot (faultRobot robot (some p) s))

/-- The limit faults a giver or a lifting taker, and the relay ends (R59, R60). -/
def limitFaults (t : Tag) (side : Side) (p : Phase) (code : Code) (s : State) : State :=
  onRelay t (fun r s =>
    match r.sideRobot side with
    | some robot => faultSide t robot p (decideEnd t code s)
    | none => s) s

/-- PLACE_LIMIT: the relay ends NO_ROOM (R59). -/
def execPlaceLimit (t : Tag) (bus : Bus) (s : State) : Host.Outcome State Fault Refusal :=
  withBus bus (takeLimit t .give .place (limitEnds t .noRoom)) s

/-- GIVE_APPROACH_LIMIT: the giver is FAULTED and the relay ends ROBOT_LOST (R59). -/
def execGiveApproachLimit (t : Tag) (bus : Bus) (s : State) : Host.Outcome State Fault Refusal :=
  withBus bus (takeLimit t .give .giveApproach (limitFaults t .give .giveApproach .robotLost)) s

/-- The GIVE_WAIT limit of T_SHUF_WAIT: a setback at a target, a failed shuffle at the source (R76, R78). -/
def shuffleWaitLimit (t : Tag) (s : State) : State :=
  onShuffle t (fun _ sh robot s =>
    let s := dropWaits (fun e => e.robot == robot) s
    match sh.returning, sh.target with
    | false, some j => setback t j s
    | _, _ => failShuffle t .accessTimeout s) s

/-- GIVE_WAIT_LIMIT: the relay ends ACCESS_TIMEOUT (R59), or a shuffle's wait is over (R76, R78). -/
def execGiveWaitLimit (t : Tag) (side : Side) (bus : Bus) (s : State) : Host.Outcome State Fault Refusal :=
  withBus bus (takeLimit t side .giveWait (match side with
    | .give => limitEnds t .accessTimeout
    | .take => shuffleWaitLimit t)) s

/-- A limit of a shuffle's own step (R79): the moved bin's relay is decided first when the shuffler holds the bin, then
the shuffler faults. -/
def shuffleStepLimit (t : Tag) (p : Phase) (s : State) : State :=
  onShuffle t (fun r sh robot s =>
    let s := if r.take.state = .shufLift then s else onMoved sh.movedRelay (fun q => decideEnd q .robotLost) s
    shufflerLost t (faultRobot robot (some p) s)) s

/-- GIVE_ACT_LIMIT: the giver is FAULTED, its stack SUSPECT, and the relay ends GIVE_TIMEOUT (R60), or a shuffler's
set-down is lost (R79). -/
def execGiveActLimit (t : Tag) (side : Side) (bus : Bus) (s : State) : Host.Outcome State Fault Refusal :=
  withBus bus (takeLimit t side .giveAct (match side with
    | .give => limitFaults t .give .giveAct .giveTimeout
    | .take => shuffleStepLimit t .giveAct)) s

/-- The TAKE_APPROACH limit: the side leaves its taker, which then faults (R61). The rules name no moment at which a limit
unbinds the robot it faults; the model unbinds it in the limit's own event, as R111 has it for a FAULT (log 50). -/
def takeApproachOver (t : Tag) (s : State) : State :=
  onRelay t (fun r s =>
    match r.take.robot with
    | some robot =>
      settle t (drawStandby t (unbind robot (faultRobot robot (some .takeApproach) (unassignTake t s))))
    | none => s) s

/-- TAKE_APPROACH_LIMIT: the taker is FAULTED and the side draws from standby (R61). -/
def execTakeApproachLimit (t : Tag) (bus : Bus) (s : State) : Host.Outcome State Fault Refusal :=
  withBus bus (takeLimit t .take .takeApproach (takeApproachOver t)) s

/-- REST_LIMIT: the relay ends REST_TIMEOUT (R61). -/
def execRestLimit (t : Tag) (bus : Bus) (s : State) : Host.Outcome State Fault Refusal :=
  withBus bus (takeLimit t .take .rest (limitEnds t .restTimeout)) s

/-- TAKE_ACT_LIMIT: the taker is FAULTED, its stack SUSPECT, and the relay ends TAKE_TIMEOUT (R60), or a shuffler's lift
is lost (R79). -/
def execTakeActLimit (t : Tag) (bus : Bus) (s : State) : Host.Outcome State Fault Refusal :=
  withBus bus (takeLimit t .take .takeAct fun s =>
    if ((getRelay s t).bind Relay.shuffle).isSome then shuffleStepLimit t .takeAct s
    else limitFaults t .take .takeAct .takeTimeout s) s

/-- BURY_LIMIT: the relay ends BURIED (R83). -/
def execBuryLimit (t : Tag) (bus : Bus) (s : State) : Host.Outcome State Fault Refusal :=
  withBus bus (takeLimit t .take .bury (limitEnds t .buried)) s

/-- QUERY_LIMIT: the relay ends LOAD_REJECTED (R136). -/
def execQueryLimit (t : Tag) (bus : Bus) (s : State) : Host.Outcome State Fault Refusal :=
  withBus bus (takeLimit t .take .query (limitEnds t .loadRejected)) s

/-! ## The exposure expiry and the silence limit -/

/-- The expiry of a relay's clock has arisen and is not yet taken (R126). -/
def clockDue (s : State) (t : Tag) : Bool := ((getRelay s t).bind Relay.clock).any fun c => c.due && !c.expired

/-- EXPOSURE_EXPIRY: the clock expires and the Relay Table acts on it (R126, R127). -/
def execExposureExpiry (t : Tag) (bus : Bus) (s : State) : Host.Outcome State Fault Refusal :=
  withBus bus (fun s => if clockDue s t then actDeferred (expiryActs t (expireClock t s)) else s) s

/-- SILENCE_LIMIT: the link goes DOWN (R146). -/
def execSilenceLimit (bus : Bus) (s : State) : Host.Outcome State Fault Refusal :=
  withBus bus (fun s =>
    if s.silenceDue && s.linkUp then linkGoesDown { s with silenceDue := false } else s) s

end Sys2Proof.Machine
end

