-- ==== Sys2Proof/Machine/Reports.lean ====
section
/-!
DEFINITION. What arrives on the fleet link and what leaves it: the matching of reports (R143, R144), POSITION, FAULT and
BEACON frames (R145, R146), bad and abandoned frames (R138), and the transmitter's commands (R142).
-/

namespace Sys2Proof.Machine

/-! ## Matching -/

/-- The report kinds that fit an open step (R143). -/
def Report.fits : Report → StepKind → Bool
  | .arrived _ _, .approach => true
  | .refused, _ => true
  | .setDone _, .set => true
  | .liftDone _ _, .lift => true
  | _, _ => false

/-- A REPORT meets the context of the robot it names (R143): declared, not FAULTED, an open step of that number, and a
kind that fits. -/
def matched (c : Robot) (seq : Byte) (r : Report) : Bool :=
  c.state != .faulted && c.step.any fun p => p.seq == seq && Report.fits r p.kind

/-- The cell of an ARRIVED report is written (R144 step 2, R105). -/
def writeCell (robot : Nat) (r : Report) (s : State) : State :=
  match r with
  | .arrived x y => modRobot robot (fun c => { c with cell := some (x.toNat, y.toNat) }) s
  | _ => s

/-- The giver's side takes its report (R45, R48, R49); `i` is its step stack. -/
def giveReport (t : Tag) (st : GiveState) (i robot : Nat) (r : Report) (s : State) : State :=
  match st, r with
  | .approach, .arrived _ _ => giveArrived t i robot s
  | .approach, .refused => giveApproachRefused t i s
  | .setting, .setDone l => giveSetDone t i robot l.toNat s
  | .setting, .refused => giveSetRefused t i robot s
  | _, _ => s

/-- The taker's side takes its report (R50, R53 to R55, R70, R72, R75 to R77). -/
def takeReport (t : Tag) (st : TakeState) (i : Nat) (c : Robot) (r : Report) (s : State) : State :=
  match st, r with
  | .approach, .arrived _ _ => takeArrived t i s
  | .approach, .refused => takeApproachRefused t c.id s
  | .lifting, .liftDone l load => takeLiftDone t i c l.toNat load.toNat s
  | .lifting, .refused => takeLiftRefused t i c.id s
  | .shufLift, .liftDone l load => digLiftDone t i c l.toNat load.toNat s
  | .shufLift, .refused => digLiftRefused t s
  | .shufSet, .setDone l => digSetDone t i l.toNat s
  | .shufSet, .refused => digSetRefused t i s
  | _, _ => s

/-- A matched report reaches the side that its robot serves (R144 step 3). -/
def sideReport (t : Tag) (c : Robot) (r : Report) (s : State) : State :=
  onRelay t (fun q s =>
    if q.give.robot = some c.id then
      match q.give.stepStack with
      | some i => giveReport t q.give.state i c.id r (closeSide t c.id s)
      | none => s
    else if q.take.robot = some c.id then
      match q.take.stepStack with
      | some i => takeReport t q.take.state i c r (closeSide t c.id s)
      | none => s
    else s) s

/-- A valid REPORT is taken (R143, R144): a matched one closes its step, writes the cell, is acted on by its side, and
lets a pending end come due; the expiries of the rule follow (R126). -/
def applyReport (robot : Nat) (seq : Byte) (r : Report) (s : State) : State :=
  match getRobot s robot with
  | none => s
  | some c =>
    if matched c seq r then
      let s := writeCell robot r (closeStep robot s)
      match c.lentTo with
      | .relay t => actDeferred (settle t (sideReport t c r s))
      | .standby | .none => s
    else s

/-- A POSITION frame (R145). -/
def applyPosition (robot : Nat) (x y : Byte) (s : State) : State :=
  modRobot robot (fun c => if c.state = .faulted then c else { c with cell := some (x.toNat, y.toNat) }) s

/-- A valid frame is taken by its type, after it has brought a DOWN link UP (R146). -/
def takeFrame (s : State) (f : InFrame) : State :=
  let s1 := linkHears s
  match f with
  | .report robot seq r => applyReport robot.toNat seq r s1
  | .position robot x y => applyPosition robot.toNat x y s1
  | .fault robot => actDeferred (applyFault robot.toNat s1)
  | .beacon => { s1 with silence := 0, silenceDue := false }

/-- A command that is one valid frame; the receiver is then hunting (log 13). -/
def oneFrame (f : InFrame) (bus : Bus) (s : State) : Host.Outcome State Fault Refusal :=
  withBus bus (fun s => takeFrame { s with rx := [] } f) s

/-! ## The inbound commands -/

/-- ARRIVED (R50, R45). -/
def execArrived (robot seq x y : Byte) (bus : Bus) (s : State) : Host.Outcome State Fault Refusal :=
  oneFrame (.report robot seq (.arrived x y)) bus s

/-- REFUSED (R49, R54, R55, R75, R76). -/
def execRefused (robot seq : Byte) (bus : Bus) (s : State) : Host.Outcome State Fault Refusal :=
  oneFrame (.report robot seq .refused) bus s

/-- SET_DONE (R48, R72, R77). -/
def execSetDone (robot seq level : Byte) (bus : Bus) (s : State) : Host.Outcome State Fault Refusal :=
  oneFrame (.report robot seq (.setDone level)) bus s

/-- LIFT_DONE (R53, R70). -/
def execLiftDone (robot seq level : Byte) (load : BitVec 16) (bus : Bus) (s : State) :
    Host.Outcome State Fault Refusal :=
  oneFrame (.report robot seq (.liftDone level load)) bus s

/-- POSITION (R145). -/
def execPosition (robot x y : Byte) (bus : Bus) (s : State) : Host.Outcome State Fault Refusal :=
  oneFrame (.position robot x y) bus s

/-- FAULT (R145). -/
def execFault (robot : Byte) (bus : Bus) (s : State) : Host.Outcome State Fault Refusal :=
  oneFrame (.fault robot) bus s

/-- BEACON (R146). -/
def execBeacon (bus : Bus) (s : State) : Host.Outcome State Fault Refusal := oneFrame .beacon bus s

/-- The receiver takes bytes after those it holds; each valid frame found among them is taken in order (R138). -/
def takeBytes (bytes : List Byte) (s : State) : State :=
  (receive bytes).1.foldl takeFrame { s with rx := (receive bytes).2 }

/-- BAD_FRAME: the bytes that arrive end a frame that fails its checks, which is dropped, and the hunt resumes behind
its start byte (R138). -/
def execBadFrame (bytes : List Byte) (bus : Bus) (s : State) : Host.Outcome State Fault Refusal :=
  withBus bus (fun s => takeBytes (s.rx ++ bytes) s) s

/-- FRAME_ABANDON: after the bytes that have come, none come for the time of R138, and the frame in progress is
abandoned; the hunt resumes behind its start byte. -/
def execFrameAbandon (bytes : List Byte) (bus : Bus) (s : State) : Host.Outcome State Fault Refusal :=
  withBus bus (fun s =>
    let s := takeBytes (s.rx ++ bytes) s
    takeBytes s.rx.tail s) s

/-! ## The transmitter -/

/-- The transmitter may start a frame: the link is UP, hold is off and no frame is being sent (R142). -/
def mayStart (s : State) : Bool := s.linkUp && !s.hold && s.tx.isNone

/-- TRANSMIT_START: the frame at the head of the queue begins to leave (R142). -/
def execTransmitStart (s : State) : Host.Outcome State Fault Refusal :=
  .next (match s.outq with
    | f :: _ => if mayStart s then { s with tx := some f.bytes } else s
    | [] => s)

/-- FRAME_SENT: the last CRC byte has left, and the frame leaves the queue (R142). -/
def execFrameSent (s : State) : Host.Outcome State Fault Refusal :=
  .next (if s.tx.isSome then { s with outq := s.outq.drop 1, tx := none } else s)

end Sys2Proof.Machine
end

