-- ==== Sys2Proof/Machine/Sense.lean ====
section
/-!
DEFINITION. The Sense Unit (10_sense_lines_and_service_hold.md): raw and debounced changes (R149, R150), what a line's
function does (R151, R152), service hold (R153) and the LINES request (R155, R156).
-/

namespace Sys2Proof.Machine

/-! ## Service hold -/

/-- Hold turns ON with a cause: the transmitter is cut off, the HOLD event is set and HOLD_ON is appended (R153,
R142). -/
def holdOn (c : HoldCause) (s : State) : State :=
  let s := setEvent .hold (cutOff { s with hold := true })
  notify (holdOnNotice s.tick c) s

/-- Hold turns OFF: the HOLD event is set and HOLD_OFF is appended (R153). -/
def holdOff (s : State) : State :=
  let s := setEvent .hold { s with hold := false }
  notify (holdOffNotice s.tick s.outq.length) s

/-- The GATE lines (R152). -/
def gateLines (s : State) : List Line := s.lines.filter fun l => l.fn == .gate

/-- The gate test (R152): the gate set is not empty and every line in it is ASSERTED. -/
def gateTest (s : State) : Bool := !(gateLines s).isEmpty && (gateLines s).all Line.level

/-- The gate test is made, and turns hold ON when it succeeds (R152, R153). -/
def makeGateTest (s : State) : State := if gateTest s && !s.hold then holdOn .gates s else s

/-- A 1 written to HOLD (R153). -/
def writeHold (s : State) : State := if s.device = .idle || s.hold then s else holdOn .host s

/-- A 1 written to RESUME (R153): every GATE line must be CLEAR. -/
def writeResume (s : State) : State :=
  if s.device = .idle || !s.hold || (gateLines s).any Line.level then s else holdOff s

/-- HOLD (R153). -/
def execHold (bus : Bus) (s : State) : Host.Outcome State Fault Refusal := withBus bus writeHold s

/-- RESUME (R153). -/
def execResume (bus : Bus) (s : State) : Host.Outcome State Fault Refusal := withBus bus writeResume s

/-! ## Debounced changes -/

/-- The edge setting selects a change to a level (R150 step 2). -/
def Edge.selects : Edge → Bool → Bool
  | .none, _ => false
  | .rise, level => level
  | .fall, level => !level
  | .both, _ => true

/-- The stack of an OVERFILL line. -/
def LineFn.stack : LineFn → Option Nat
  | .overfill i => some i
  | .off | .gate => none

/-- A line's function acts on a debounced change (R150 step 3). -/
def lineActs (fn : LineFn) (level : Bool) (s : State) : State :=
  match fn with
  | .off => s
  | .overfill i => if level then overfillRise i s else overfillFall i s
  | .gate => makeGateTest s

/-- A debounced change of a line (R150): the image, the notice, the function. -/
def debounced (n : Nat) (level : Bool) (s : State) : State :=
  let l := getLine s n
  let s := writeImage (modLine n (fun l => { l with level := level, candidate := none }) s)
  let s := if l.edge.selects level then notify (lineChangeNotice s.tick l.fn.stack n level) s else s
  lineActs l.fn level s

/-- A candidate at count 0 (R149). -/
def freshCandidate (level : Bool) : Candidate := { level := level, count := 0, due := false }

/-- The filter takes a raw change (R149); a change that an advance has brought about stands when the raw level moves on
(log 8). -/
def rawChanged (n : Nat) (level : Bool) (s : State) : State :=
  let l := getLine s n
  if l.raw = level then s
  else
    let s := modLine n (fun l => { l with raw := level }) s
    if l.fn = .off ∨ l.candidate.any Candidate.due then s
    else if level = l.level then modLine n (fun l => { l with candidate := none }) s
    else if checkTime l.check = 0 then debounced n level s
    else modLine n (fun l => { l with candidate := some (freshCandidate level) }) s

/-- RAW_LINE_CHANGE (R149); there are lines 0..31 (R148). -/
def execRawLineChange (line : Nat) (level : Bool) (bus : Bus) (s : State) : Host.Outcome State Fault Refusal :=
  if line < Config.lineCount then withBus bus (fun s => actDeferred (rawChanged line level s)) s
  else .fault .noSuchLine

/-- The debounced change that an advance has brought about is taken (R149, R150); a raw level that has moved on since
then starts a candidate. -/
def debounceExpired (n : Nat) (s : State) : State :=
  match (getLine s n).candidate with
  | some c =>
    if c.due then
      let s := modLine n (fun l => { l with
        candidate := if l.raw = c.level then none else some (freshCandidate l.raw) }) s
      let again := (getLine s n).candidate
      let s := debounced n c.level s
      modLine n (fun l => { l with candidate := again }) s
    else s
  | none => s

/-- DEBOUNCE_EXPIRY (R150). -/
def execDebounceExpiry (line : Nat) (bus : Bus) (s : State) : Host.Outcome State Fault Refusal :=
  if line < Config.lineCount then withBus bus (fun s => actDeferred (debounceExpired line s)) s
  else .fault .noSuchLine

/-! ## LINES -/

/-- A line with the settings of an entry. -/
def LineEntry.sets (e : LineEntry) (l : Line) : Line := { l with fn := e.fn, check := e.check, edge := e.edge }

/-- The lines as they would stand once every entry had been applied (R155). -/
def linesAfter (es : List LineEntry) (ls : List Line) : List Line :=
  es.foldl (fun ls e => ls.modify e.line e.sets) ls

/-- No two lines would be OVERFILL for one stack, and at most 4 would be GATE (R155). -/
def linesFit (ls : List Line) : Bool :=
  decide (ls.filterMap fun l => l.fn.stack).Nodup && (ls.filter fun l => l.fn == .gate).length ≤ Config.gateMax

/-- The entries that change a setting, in ascending order of line number (R156). -/
def changedEntries (s : State) (es : List LineEntry) : List LineEntry :=
  (List.range Config.lineCount).filterMap fun n =>
    es.find? fun e => e.line == n && e.sets (getLine s n) != getLine s n

/-- The old function lets go of a line (R156 step 1). -/
def letGoLine (s : State) (e : LineEntry) : State :=
  match (getLine s e.line).fn.stack with
  | none => s
  | some i =>
    let s1 := modStack i (fun k => { k with senseLine := none }) s
    if (getStack s1 i).blocked then overfillFall i s1 else s1

/-- The new settings of a line are written, with the raw level as its debounced level (R156 step 2). The candidate goes
with a change that a TICK has made due and no DEBOUNCE_EXPIRY has taken (log 49). -/
def settleLine (s : State) (e : LineEntry) : State :=
  modLine e.line (fun l => { e.sets l with
    candidate := none, level := match e.fn with | .off => false | _ => l.raw }) s

/-- The new function takes a line (R156 step 3). -/
def takeLine (s : State) (e : LineEntry) : State :=
  match e.fn with
  | .overfill i =>
    let s1 := modStack i (fun k => { k with senseLine := some e.line }) s
    if (getLine s1 e.line).level then overfillRise i s1 else s1
  | .off | .gate => s

/-- The six steps of an accepted LINES request but the last (R156). In step 1 a GATE line leaves the gate set at once,
and joins it in step 3: the set is read in step 4 alone. -/
def applyLines (es : List LineEntry) (s : State) : State :=
  let before := lineImage s
  let changed := changedEntries s es
  let s := changed.foldl letGoLine s
  let s := changed.foldl settleLine s
  let s := changed.foldl takeLine s
  let s := makeGateTest s
  if lineImage s = before then s else writeImage s

end Sys2Proof.Machine
end

