-- ==== Sys2Proof/Machine/Requests.lean ====
section
/-!
DEFINITION. The ten requests (R20, R21, R88 to R95, R107, R155, R156, R175 to R179): the checks of each in their order,
its effects, and the code it ends with at once. An accepted RELAY ends later and answers none.
-/

namespace Sys2Proof.Machine

/-! ## Stacks -/

/-- A stack that is neither UNDECLARED nor RETIRED. -/
def StackRec.declared (k : StackRec) : Bool := k.state == .active || k.state == .suspect

/-- A stack has a resting entry, a pending entry or an access holder (R175, R178). -/
def StackRec.inUse (k : StackRec) : Bool := !k.resting.isEmpty || !k.pend.isEmpty || k.holder.isSome

/-- Another ACTIVE or SUSPECT stack stands at a cell (R175). -/
def cellTaken (s : State) (d : DeclareStack) : Bool :=
  stackIds.any fun i => i != d.stack && (getStack s i).declared && (getStack s i).x == d.x && (getStack s i).y == d.y

/-- Steps 1 to 3 of R176. An ACTIVE stack that passes R175 has nothing that a wait entry could stand for, so its wait list
is empty as well (log 47). -/
def declareStack (d : DeclareStack) (s : State) : State :=
  let s := modStack d.stack (fun k => { k with
    x := d.x, y := d.y, sideA := d.sideA, sideB := d.sideB, capacity := d.capacity, zone := d.zone, state := .active
    resting := [], pend := [], holder := none, waits := [] }) s
  stackChanged d.stack (overfillTest d.stack s)

/-- DECLARE_STACK (R175, R176). -/
def requestDeclareStack (b : List Byte) (s : State) : Code × State :=
  match DeclareStack.ofBody b with
  | none => (.field, s)
  | some d =>
    if (getStack s d.stack).state = .suspect then (.busy, s)
    else if (getStack s d.stack).state = .active ∧ (getStack s d.stack).inUse then (.busy, s)
    else if cellTaken s d then (.duplicate, s)
    else (.done, declareStack d s)

/-- An accepted RETIRE of a stack (R178). -/
def retireStack (i : Nat) (s : State) : State := stackChanged i (modStack i (fun k => { k with state := .retired }) s)

/-! ## Robots -/

/-- A robot's declaration and retirement are refused BUSY (R177, R178). -/
def Robot.busy (c : Robot) : Bool :=
  match c.state with
  | .standby | .lent | .acting => true
  | .faulted => c.lentTo != .none
  | .free => false

/-- The context that a first declaration makes (R177). -/
def newRobot (d : DeclareRobot) : Robot :=
  { id := d.robot, district := d.district, offset := d.offset, gain := d.gain, format := d.format, state := .free
    lentTo := .none, heldBin := none, cell := none, step := none, nextSeq := 0#8, accessHeld := none }

/-- The context of a declared robot after a declaration (R113, R177). -/
def Robot.redeclared (d : DeclareRobot) (c : Robot) : Robot :=
  { c with district := d.district, offset := d.offset, gain := d.gain, format := d.format, state := .free
           lentTo := .none, heldBin := none, cell := none }

/-- A context enters the table at its id's place. -/
def insertRobot (c : Robot) : List Robot → List Robot
  | [] => [c]
  | r :: rest => if c.id < r.id then c :: r :: rest else r :: insertRobot c rest

/-- DECLARE_ROBOT (R177, R113). -/
def requestDeclareRobot (b : List Byte) (s : State) : Code × State :=
  match DeclareRobot.ofBody b with
  | none => (.field, s)
  | some d =>
    match getRobot s d.robot with
    | some c => if c.busy then (.busy, s) else (.done, modRobot d.robot (Robot.redeclared d) s)
    | none =>
      if s.robots.length < Config.robotMax then (.done, { s with robots := insertRobot (newRobot d) s.robots })
      else (.full, s)

/-- An accepted RETIRE of a robot: its context and its unsent frames go (R178, R141). -/
def retireRobot (r : Nat) (s : State) : State :=
  removeUnsent (fun f => f.robot == r) { s with robots := s.robots.filter fun c => c.id != r }

/-- RETIRE (R178). -/
def requestRetire (b : List Byte) (s : State) : Code × State :=
  match Retire.ofBody b with
  | none => (.field, s)
  | some (.stack i) =>
    if !(getStack s i).declared then (.unknown, s)
    else if (getStack s i).inUse then (.busy, s)
    else (.done, retireStack i s)
  | some (.robot r) =>
    match getRobot s r with
    | none => (.unknown, s)
    | some c => if c.busy then (.busy, s) else (.done, retireRobot r s)

/-- STANDBY (R107, R108). -/
def requestStandby (b : List Byte) (s : State) : Code × State :=
  match standbyOfBody b with
  | none => (.field, s)
  | some (r, add) =>
    match getRobot s r with
    | none => (.unknown, s)
    | some c =>
      if add then
        match c.state with
        | .standby => (.done, s)
        | .lent | .acting | .faulted => (.busy, s)
        | .free =>
          let s := modRobot r (fun c => { c with state := .standby, lentTo := .standby }) s
          (.done, fillFromQueue Config.robotMax c.district (modQueue c.district (fun q => q ++ [r]) s))
      else if c.state = .standby then
        (.done, modRobot r (fun c => { c with state := .free, lentTo := .none })
          (modQueue c.district (fun q => q.erase r) s))
      else (.done, s)

/-! ## Tuning and lines -/

/-- The settings after an accepted TUNE (R179); a silence limit of 0 is written as 1. -/
def Tuning.apply (u : Tune) (tn : Tuning) : Tuning :=
  let tn := match u.weights with
    | some (wd, wb, wf, wz) => { tn with wd := wd, wb := wb, wf := wf, wz := wz }
    | none => tn
  let tn := match u.tolerance with
    | some (a, r) => { tn with tolAbs := a, tolRel := r }
    | none => tn
  let tn := match u.timing with
    | some (n, ps) => { tn with timing := tn.timing.set n ps }
    | none => tn
  match u.silence with
  | some l => { tn with silenceLimit := max 1 l }
  | none => tn

/-- TUNE (R179). -/
def requestTune (b : List Byte) (s : State) : Code × State :=
  match Tune.ofBody b with
  | none => (.field, s)
  | some u => (.done, { s with tuning := s.tuning.apply u })

/-- LINES (R155, R156). -/
def requestLines (b : List Byte) (s : State) : Code × State :=
  match linesOfBody b with
  | none => (.field, s)
  | some es => if linesFit (linesAfter es s.lines) then (.done, applyLines es s) else (.field, s)

/-! ## SEED -/

/-- A bin rests on another stack, or is in a robot's held-bin field (R20). -/
def restsElsewhere (s : State) (i : Nat) (b : BinId) : Bool :=
  (stackIds.any fun j => j != i && (getStack s j).rests b) || (holdingRobot s b).isSome

/-- The resting entry of a listed bin: the old one if the bin rested here, else an orphan (R21 step 1). -/
def seedEntry (old : List RestEntry) (b : BinId) : RestEntry :=
  (old.find? fun e => e.bin == b).getD { bin := b, owner := none, bound := none }

/-- Steps 1 to 5 of R21. Step 2 hands the kept relays to the Timer Unit in the order of the new list, bottom to top: the
rule gives none, so the order of their EXPOSED notices and deferred ends is the model's choice (log 45). -/
def seed (i : Nat) (bins : List BinId) (s : State) : State :=
  let old := (getStack s i).resting
  let s := modStack i (fun k => { k with resting := bins.map (seedEntry old) }) s
  let kept := (getStack s i).resting.filterMap RestEntry.owner
  let s := kept.foldl (fun s t => situationChanged t false s) s
  let lost := old.filterMap fun e => if bins.contains e.bin then none else e.owner
  let s := lost.foldl (fun s t => endRelay t .stackLost s) s
  let s :=
    if (getStack s i).blocked ∧ bins.length < (getStack s i).capacity then
      if (getStack s i).state = .active then enterSuspect i .overfill 0#32 0 0#32 s
      else notify (suspectNotice s.tick 0#32 0 i 0#32 .overfill) s
    else modStack i (fun k => { k with state := .active }) s
  stackChanged i (topReport i s)

/-- SEED (R20, R21). -/
def requestSeed (b : List Byte) (s : State) : Code × State :=
  match seedOfBody b with
  | none => (.field, s)
  | some (i, bins) =>
    if !(getStack s i).declared then (.unknown, s)
    else if (getStack s i).capacity < bins.length then (.field, s)
    else if !decide bins.Nodup then (.duplicate, s)
    else if (getStack s i).holder.isSome || !(getStack s i).pend.isEmpty then (.busy, s)
    else if bins.any (restsElsewhere s i) then (.duplicate, s)
    else (.done, seed i bins s)

/-! ## RELAY -/

/-- The origin robot and the named takers. -/
def RelayOrder.robots (o : RelayOrder) : List Nat :=
  (match o.origin with | .robot r => [r] | .stack _ => []) ++ o.takers.filterMap id

/-- The pairs of districts of the hops, hop 1 first. -/
def RelayOrder.pairs (o : RelayOrder) : List (Nat × Nat) := o.path.zip (o.path.drop 1)

/-- The district of a declared robot. -/
def inDistrict (s : State) (r d : Nat) : Bool := (getRobot s r).any fun c => c.district == d

/-- The origin and the named takers are of the path's districts (R88). -/
def RelayOrder.districtsFit (o : RelayOrder) (s : State) : Bool :=
  (match o.origin with | .robot r => inDistrict s r (o.path.getD 0 0) | .stack _ => true)
    && (o.takers.zip (o.path.drop 1)).all fun
      | (some r, d) => inDistrict s r d
      | (none, _) => true

/-- The origin stack joins the first pair (R88). -/
def RelayOrder.originJoins (o : RelayOrder) (s : State) : Bool :=
  match o.origin with
  | .robot _ => true
  | .stack i => (getStack s i).joins (o.path.getD 0 0) (o.path.getD 1 0)

/-- Every hop's pair is joined by an ACTIVE or SUSPECT stack (R88). -/
def RelayOrder.hopsJoined (o : RelayOrder) (s : State) : Bool :=
  o.pairs.all fun (p, q) => stackIds.any fun i => (getStack s i).declared && (getStack s i).joins p q

/-- The bin check (R89). -/
def RelayOrder.binCheck (o : RelayOrder) (s : State) : Option Code :=
  match o.origin with
  | .robot _ =>
    if (restingStack s o.bin).isSome || (holdingRobot s o.bin).isSome then some .duplicate else none
  | .stack i =>
    if (getStack s i).resting.any fun e => e.bin == o.bin && e.owner.isNone then none
    else if (restingStack s o.bin).isSome || (holdingRobot s o.bin).isSome then some .duplicate
    else some .unknown

/-- The checks of a RELAY in their order, after the field checks (R88). -/
def RelayOrder.refusal (o : RelayOrder) (s : State) : Option Code :=
  if o.robots.any fun r => (getRobot s r).isNone then some .unknown
  else if (match o.origin with | .stack i => !(getStack s i).declared | .robot _ => false) then some .unknown
  else if !o.districtsFit s then some .field
  else if !o.originJoins s then some .field
  else if !o.hopsJoined s then some .field
  else if (getRelay s o.tag).isSome then some .duplicate
  else if Config.relayMax ≤ s.relays.length then some .full
  else if o.robots.any fun r => (getRobot s r).any fun c => c.state != .free then some .busy
  else o.binCheck s

/-- The record of an accepted order, before hop 1 starts (R85, R90 step 1). -/
def RelayOrder.record (o : RelayOrder) (slot : Nat) : Relay :=
  { tag := o.tag, slot := slot, bin := o.bin, cls := o.cls, budget := o.budget, due := o.due, reference := o.reference
    timingSet := o.timingSet, strictLoad := o.strictLoad, allowShuffle := o.allowShuffle
    abortOnExposure := o.abortOnExposure, path := o.path, takers := o.takers, origin := o.origin, flags := {}
    carried := false, lastHolder := match o.origin with | .robot r => some r | .stack _ => none
    hop := 1, give := { state := .done, robot := none, stepStack := none, timer := none }, take := emptyTake
    binding := none, refused := none, giveRefusals := 0, liftRefusals := 0, endPending := none
    clock := if o.cls != .ambient && 0 < o.budget then some { used := 0, opened := none, expired := false, due := false }
      else none
    shuffle := none }

/-- The robots whose shuffle moves a bin. -/
def shufflersOf (s : State) (bin : BinId) : List Nat :=
  s.relays.filterMap fun p => if p.shuffle.any fun sh => sh.movedBin == bin then p.take.robot else none

/-- A pending entry that a shuffle made for an orphan takes the tag and the district of the relay that claims the bin: the
bin's reservation and its shuffler's blank hold. -/
def PendEntry.adopt (bin : BinId) (shufflers : List Nat) (t : Tag) (d : Nat) : PendEntry → PendEntry
  | .bin b tag d' => if b = bin then .bin b (some t) (some d) else .bin b tag d'
  | .hold tag r => if r ∈ shufflers then .hold (some t) r else .hold tag r

/-- The shuffle part of a claimed bin names the relay that claims it and its district (R67). -/
def Relay.adopt (bin : BinId) (t : Tag) (d : Nat) (p : Relay) : Relay :=
  { p with shuffle := p.shuffle.map fun sh =>
      if sh.movedBin = bin then { sh with movedRelay := some t, boundDistrict := some d } else sh }

/-- The relay that claims an orphan which a shuffle is about to lift becomes the moved relay of that shuffle (R67, R81),
and the shuffle's reservation and blank hold carry its tag (R6, R7). The manual does not say what such a claim does to the
shuffle (log 46). -/
def adoptShuffle (bin : BinId) (t : Tag) (d : Nat) (s : State) : State :=
  let s1 := { s with relays := s.relays.map (Relay.adopt bin t d) }
  { s1 with stackRecs := s1.stackRecs.map fun k => { k with
      pend := k.pend.map (PendEntry.adopt bin (shufflersOf s bin) t d) } }

/-- Step 2 of R90: the origin robot is lent with the bin, or the orphan is claimed, by the running shuffle's part as well
when one is about to lift it (log 46). -/
def claimOrigin (o : RelayOrder) (s : State) : State :=
  match o.origin with
  | .robot r => modRobot r (fun c => { c with heldBin := some o.bin }) (lend r o.tag s)
  | .stack i => adoptShuffle o.bin o.tag (o.path.getD 1 0) (modStack i (fun k => { k with resting := k.resting.map fun e =>
      if e.bin = o.bin then { e with owner := some o.tag, bound := k.facing (o.path.getD 1 0) } else e }) s)

/-- The intake of an accepted RELAY (R90). -/
def intake (o : RelayOrder) (slot : Nat) (s : State) : State :=
  let s := claimOrigin o { s with relays := s.relays ++ [o.record slot] }
  let s := (o.takers.filterMap id).foldl (fun s r => lend r o.tag s) s
  let s := situationChanged o.tag false s
  match o.origin with
  | .robot r => startHop o.tag 1 (some r) none s
  | .stack i => startHop o.tag 1 none (some i) s

/-- RELAY (R87, R88, R90): a refusal at once, or none and the slot stays TAKEN. -/
def requestRelay (slot : Nat) (tag : Tag) (b : List Byte) (s : State) : Option Code × State :=
  match RelayOrder.ofBody tag b with
  | none => (some .field, s)
  | some o =>
    match o.refusal s with
    | some c => (some c, s)
    | none => (none, intake o slot s)

/-! ## WITHDRAW and RULING -/

/-- WITHDRAW (R93). -/
def requestWithdraw (b : List Byte) (s : State) : Code × State :=
  match withdrawOfBody b with
  | none => (.field, s)
  | some t => if (getRelay s t).isSome then (.done, endRelay t .withdrawn s) else (.unknown, s)

/-- RULING (R95): ACCEPT passes the bin on, REJECT ends the relay. -/
def requestRuling (b : List Byte) (s : State) : Code × State :=
  match rulingOfBody b with
  | none => (.field, s)
  | some (t, accept) =>
    match getRelay s t with
    | none => (.unknown, s)
    | some r =>
      if r.take.state = .query then
        (.done, if accept then passOn t (enterTake t .done s) else endRelay t .loadRejected s)
      else (.busy, s)

end Sys2Proof.Machine
end

