-- ==== Sys2Proof/Machine/Resets.lean ====
section
/-!
DEFINITION. The two resets (R22, R38, R99, R114, R128, R137, R147, R157, R173, R180).
-/

namespace Sys2Proof.Machine

/-- POWER_ON_RESET (R173). -/
def execPowerOnReset (s : State) : Host.Outcome State Fault Refusal := .next (powerOn s)

/-- RESET (R173), taken in any device state. -/
def execReset (s : State) : Host.Outcome State Fault Refusal := .next (softReset s)

end Sys2Proof.Machine
end

