-- ==== Sys2Proof/Machine/Exchange.lean ====
section
/-!
DEFINITION. The Exchange Port's registers and the request chain (11_the_exchange_area.md): a start (R159, R160), the
polls (R163 to R165), the taking of slots (R166, R174), and what a write or a read of each register does (R161, R170,
R171).
-/

namespace Sys2Proof.Machine

/-! ## Taking a slot -/

/-- The request kinds (Request slot, Kind). -/
inductive RequestKind where
  | declareStack | declareRobot | retire | tune | lines | standby | seed | relay | withdraw | ruling
  deriving DecidableEq, Repr

/-- The kind of a code; any other code is refused KIND (R174). -/
def RequestKind.ofCode : Nat → Option RequestKind
  | 1 => some .declareStack
  | 2 => some .declareRobot
  | 3 => some .retire
  | 4 => some .tune
  | 5 => some .lines
  | 6 => some .standby
  | 7 => some .seed
  | 8 => some .relay
  | 9 => some .withdraw
  | 10 => some .ruling
  | _ => none

/-- A request reaches the block that owns what it names (R166): the code it ends with at once, or none for an accepted
RELAY. -/
def RequestKind.run (kind : RequestKind) (slot : Nat) (tag : Tag) (b : List Byte) (s : State) : Option Code × State :=
  let atOnce (r : Code × State) : Option Code × State := (some r.1, r.2)
  match kind with
  | .declareStack => atOnce (requestDeclareStack b s)
  | .declareRobot => atOnce (requestDeclareRobot b s)
  | .retire => atOnce (requestRetire b s)
  | .tune => atOnce (requestTune b s)
  | .lines => atOnce (requestLines b s)
  | .standby => atOnce (requestStandby b s)
  | .seed => atOnce (requestSeed b s)
  | .relay => requestRelay slot tag b s
  | .withdraw => atOnce (requestWithdraw b s)
  | .ruling => atOnce (requestRuling b s)

/-- A slot is the slot of an active relay (R166). -/
def slotActive (s : State) (slot : Nat) : Bool := s.relays.any fun r => r.slot == slot

/-- The code with which a taken slot ends at once, with the state it leaves (R166, R174). -/
def runSlot (slot kind : Nat) (tag : Tag) (b : List Byte) (s : State) : Option Code × State :=
  match RequestKind.ofCode kind with
  | none => (some .kind, s)
  | some k => if slotActive s slot then (some .busy, s) else k.run slot tag b s

/-- A taken slot is dispatched, ended if it ends at once, and the expiries of its rule follow (R126, R166, R167). -/
def dispatch (slot kind : Nat) (tag : Tag) (b : List Byte) (s : State) : State :=
  match runSlot slot kind tag b s with
  | (some code, s') => actDeferred (endRequest slot tag code s')
  | (none, s') => actDeferred s'

/-- A slot found POSTED is taken (R162, R185): its bytes 1..143 are read, TAKEN is written into its ownership, the cursor
goes to it, and it is dispatched. A bus error leaves it undispatched (log 17). -/
def takeSlot (k : Kept) (slot : Nat) (s : State) : State :=
  match readExchange (k.slotAddr slot + 1) 143 s with
  | (none, s1) => s1
  | (some bs, s1) =>
    let s2 := writeExchange (k.slotAddr slot) [2#8] s1
    if faulted s2 then s2
    else
      dispatch slot (byteAt bs 0) (BitVec.ofNat 32 (word32At bs 3)) (bs.drop 7)
        { s2 with cursor := some (.anchor slot) }

/-! ## Polls -/

/-- A broken link: the cursor is kept, the device enters BROKEN and CHAIN is set (R165). -/
def brokenLink (s : State) : State := setEvent .chain { s with device := .broken, pollDue := false }

/-- What the walk reads at its cursor. -/
inductive Found where
  | posted (slot : Nat)
  | ends
  | broken
  deriving DecidableEq, Repr

/-- The reading of a walk's step (R164, R182): the ownership at BEFORE, the link and then the ownership at AT. None is a
bus error. -/
def readCursor (k : Kept) (c : Cursor) (s : State) : Option Found × State :=
  match c with
  | .before i =>
    match readExchange (k.slotAddr i) 1 s with
    | (none, s1) => (none, s1)
    | (some own, s1) => (some (if byteAt own 0 = 1 then .posted i else .ends), s1)
  | .anchor a =>
    match readExchange (k.slotAddr a + 2) 2 s with
    | (none, s1) => (none, s1)
    | (some link, s1) =>
      if word16At link 0 = Config.linkEnd then (some .ends, s1)
      else if word16At link 0 < k.slotCount ∧ word16At link 0 ≠ a then
        match readExchange (k.slotAddr (word16At link 0)) 1 s1 with
        | (none, s2) => (none, s2)
        | (some own, s2) => (some (if byteAt own 0 = 1 then .posted (word16At link 0) else .broken), s2)
      else (some .broken, s1)

/-- The walk of the request chain (R164). The number bounds its steps: `walkBound` gives one for each slot that can be
found POSTED. -/
def walk : Nat → Kept → State → State
  | 0, _, s => s
  | n + 1, k, s =>
    match s.cursor with
    | none => s
    | some c =>
      match readCursor k c s with
      | (none, s1) => s1
      | (some .ends, s1) => s1
      | (some .broken, s1) => brokenLink s1
      | (some (.posted slot), s1) =>
        let s2 := takeSlot k slot s1
        if faulted s2 then s2 else walk n k s2

/-- Each step but the last takes a slot that was POSTED or that the host posts meanwhile. -/
def walkBound (k : Kept) (s : State) : Nat := k.slotCount + s.bus.writes.length + 2

/-- A poll (R163, R169): the poll count goes to 0, the take index is read, a GAP notice goes before the walk. -/
def poll (s : State) : State :=
  match s.kept with
  | none => s
  | some k =>
    if s.device = .running then
      let s1 := readTakeIndex { s with pollCount := 0 }
      let s2 := if faulted s1 then s1 else putGap s1
      if faulted s2 then s2 else walk (walkBound k s2) k s2
    else s

/-! ## Starting and stopping -/

/-- A failed start: START_FAIL is set, RUN is cleared and the device stays IDLE (R159). -/
def startFails (s : State) : State := setEvent .startFail { s with run := false }

/-- The header values kept from a start, the ring empty (R158, R160). -/
def Header.kept (h : Header) : Kept :=
  { slotCount := h.slotCount, slotBase := h.slotBase, noticeCount := h.noticeCount, ringBase := h.ringBase
    pollInterval := max 1 h.pollInterval, firstSlot := h.firstSlot, writeIndex := h.takeIndex, takeIndex := h.takeIndex }

/-- A start that passes the checks, in the order of R160. -/
def startRuns (h : Header) (s : State) : State :=
  let s := { s with kept := some h.kept, tickPeriod := tickPeriodOf h.tickRate, cursor := some (.before h.firstSlot)
                    pollCount := 0, pollDue := false, gap := none }
  let s := writeExchange (s.exchangeBase.toNat + 28) (le16 h.takeIndex) s
  let s := writeExchange (s.exchangeBase.toNat + 32) (le32 (lineImage s)) s
  if faulted s then s else poll { s with device := .running }

/-- RUN set in IDLE asks for a start (R159). -/
def start (s : State) : State :=
  if s.exchangeBase = 0#64 ∨ s.exchangeBase.toNat % 64 ≠ 0 then startFails s
  else
    match readExchange s.exchangeBase.toNat Config.headerBytes s with
    | (none, s1) => s1
    | (some bs, s1) =>
      if (Header.ofBytes bs).passes s.exchangeBase.toNat then startRuns (Header.ofBytes bs) s1 else startFails s1

/-- RUN is set (R161). -/
def setRun (s : State) : State :=
  match s.device with
  | .idle => start { s with run := true }
  | .stopped => poll { s with run := true, device := .running }
  | .running | .broken | .exchangeFault => s

/-- RUN is cleared (R161): RUNNING and BROKEN become STOPPED with the cursor kept. -/
def clearRun (s : State) : State :=
  match s.device with
  | .running | .broken => { s with run := false, device := .stopped, pollDue := false }
  | .idle | .stopped | .exchangeFault => s

/-- CHAIN_START with an index in STOPPED or BROKEN (R161, R165). -/
def chainRestart (i : Nat) (s : State) : State :=
  if (s.device = .stopped ∨ s.device = .broken) ∧ s.kept.any fun k => i < k.slotCount then
    poll { s with cursor := some (.before i), run := true, device := .running }
  else s

/-- A write to NUDGE (R163). -/
def nudged (s : State) : State := if s.device = .running then poll s else s

/-- A write to EVENTS: it clears the bits written as 1 under write-one-clear, and is ignored under read-clear (R171). -/
def writeEvents (v : BitVec 32) (s : State) : State :=
  if s.clearMode then { s with events := s.events &&& ~~~v } else s

/-- A write to EXCHANGE_BASE, taken in IDLE only (R170). -/
def writeBase (v : BitVec 64) (s : State) : State := if s.device = .idle then { s with exchangeBase := v } else s

/-- A write to EVENT_MASK; places that are not named are not acted on (R184). -/
def writeMask (v : BitVec 32) (s : State) : State := { s with eventMask := v &&& eventPlaces }

/-- A write to CONTROL, its fields in the order of R170. -/
def writeControl (v : BitVec 32) (s : State) : State :=
  if v.getLsbD 1 then softReset s
  else
    let s := { s with clearMode := v.getLsbD 4 }
    let s := if v.getLsbD 0 = s.run then s else if v.getLsbD 0 then setRun s else clearRun s
    let s := if v.getLsbD 2 then writeHold s else s
    if v.getLsbD 3 then writeResume s else s

/-- The slot index of a CHAIN_START write: bits 0..15 (Registers). -/
def chainIndex (v : BitVec 32) : Nat := v.toNat % 65536

/-- A write of a register by its offset (Registers); the others are not acted on (R184). -/
def writeRegister (offset : Nat) (v : BitVec 64) (s : State) : State :=
  if offset = 0x04 then writeControl (v.setWidth 32) s
  else if offset = 0x0C then writeEvents (v.setWidth 32) s
  else if offset = 0x10 then writeMask (v.setWidth 32) s
  else if offset = 0x14 then nudged s
  else if offset = 0x18 then chainRestart (chainIndex (v.setWidth 32)) s
  else if offset = 0x20 then writeBase v s
  else s

/-! ## The commands -/

/-- RUN_SET (R161). -/
def execRunSet (bus : Bus) (s : State) : Host.Outcome State Fault Refusal := withBus bus setRun s

/-- RUN_CLEAR (R161). -/
def execRunClear (s : State) : Host.Outcome State Fault Refusal := .next (clearRun s)

/-- CLEAR_MODE (R171). -/
def execClearMode (mode : Bool) (s : State) : Host.Outcome State Fault Refusal := .next { s with clearMode := mode }

/-- EVENTS_READ (R171): the bits are returned, and under read-clear those bits are cleared. -/
def execEventsRead (s : State) : Host.Outcome State Fault Refusal :=
  .next { s with readData := s.events, events := if s.clearMode then s.events else 0#32 }

/-- EVENTS_WRITE (R171). -/
def execEventsWrite (v : BitVec 32) (s : State) : Host.Outcome State Fault Refusal := .next (writeEvents v s)

/-- EVENT_MASK_WRITE (R171). -/
def execEventMaskWrite (v : BitVec 32) (s : State) : Host.Outcome State Fault Refusal := .next (writeMask v s)

/-- NUDGE (R163): any value asks for a poll. -/
def execNudge (_value : BitVec 32) (bus : Bus) (s : State) : Host.Outcome State Fault Refusal := withBus bus nudged s

/-- CHAIN_START (R165). -/
def execChainStart (v : BitVec 32) (bus : Bus) (s : State) : Host.Outcome State Fault Refusal :=
  withBus bus (chainRestart (chainIndex v)) s

/-- EXCHANGE_BASE_WRITE (R170). -/
def execExchangeBaseWrite (v : BitVec 64) (s : State) : Host.Outcome State Fault Refusal := .next (writeBase v s)

/-- REGISTER_WRITE (R170, R184). -/
def execRegisterWrite (offset : Nat) (v : BitVec 64) (bus : Bus) (s : State) : Host.Outcome State Fault Refusal :=
  withBus bus (writeRegister offset v) s

/-- CHAIN_POLL: the interval's poll (R163, log 6). -/
def execChainPoll (bus : Bus) (s : State) : Host.Outcome State Fault Refusal :=
  withBus bus (fun s => if s.pollDue then poll { s with pollDue := false } else s) s

end Sys2Proof.Machine
end

