-- ==== Sys2Proof/Machine/Dispatch.lean ====
section
/-!
DEFINITION. The dispatch: one arm per command, each one direct call of its meaning.
-/

namespace Sys2Proof.Machine

/-- The command's effect on everything but the queue. -/
def exec (i : Instr) (s : State) : Host.Outcome State Fault Refusal :=
  match i with
  | .powerOnReset => Sys2Proof.Machine.execPowerOnReset s
  | .reset => Sys2Proof.Machine.execReset s
  | .runSet bus => Sys2Proof.Machine.execRunSet bus s
  | .runClear => Sys2Proof.Machine.execRunClear s
  | .hold bus => Sys2Proof.Machine.execHold bus s
  | .resume bus => Sys2Proof.Machine.execResume bus s
  | .clearMode mode => Sys2Proof.Machine.execClearMode mode s
  | .eventsRead => Sys2Proof.Machine.execEventsRead s
  | .eventsWrite value => Sys2Proof.Machine.execEventsWrite value s
  | .eventMaskWrite value => Sys2Proof.Machine.execEventMaskWrite value s
  | .nudge value bus => Sys2Proof.Machine.execNudge value bus s
  | .chainStart value bus => Sys2Proof.Machine.execChainStart value bus s
  | .exchangeBaseWrite value => Sys2Proof.Machine.execExchangeBaseWrite value s
  | .registerWrite offset value bus => Sys2Proof.Machine.execRegisterWrite offset value bus s
  | .tick => Sys2Proof.Machine.execTick s
  | .chainPoll bus => Sys2Proof.Machine.execChainPoll bus s
  | .stepWarn tag side bus => Sys2Proof.Machine.execStepWarn tag side bus s
  | .buryWarn tag bus => Sys2Proof.Machine.execBuryWarn tag bus s
  | .placeLimit tag bus => Sys2Proof.Machine.execPlaceLimit tag bus s
  | .giveApproachLimit tag bus => Sys2Proof.Machine.execGiveApproachLimit tag bus s
  | .giveWaitLimit tag side bus => Sys2Proof.Machine.execGiveWaitLimit tag side bus s
  | .giveActLimit tag side bus => Sys2Proof.Machine.execGiveActLimit tag side bus s
  | .takeApproachLimit tag bus => Sys2Proof.Machine.execTakeApproachLimit tag bus s
  | .restLimit tag bus => Sys2Proof.Machine.execRestLimit tag bus s
  | .takeActLimit tag bus => Sys2Proof.Machine.execTakeActLimit tag bus s
  | .buryLimit tag bus => Sys2Proof.Machine.execBuryLimit tag bus s
  | .queryLimit tag bus => Sys2Proof.Machine.execQueryLimit tag bus s
  | .exposureExpiry tag bus => Sys2Proof.Machine.execExposureExpiry tag bus s
  | .silenceLimit bus => Sys2Proof.Machine.execSilenceLimit bus s
  | .debounceExpiry line bus => Sys2Proof.Machine.execDebounceExpiry line bus s
  | .frameAbandon bytes bus => Sys2Proof.Machine.execFrameAbandon bytes bus s
  | .rawLineChange line level bus => Sys2Proof.Machine.execRawLineChange line level bus s
  | .badFrame bytes bus => Sys2Proof.Machine.execBadFrame bytes bus s
  | .arrived robot seq x y bus => Sys2Proof.Machine.execArrived robot seq x y bus s
  | .refused robot seq bus => Sys2Proof.Machine.execRefused robot seq bus s
  | .setDone robot seq level bus => Sys2Proof.Machine.execSetDone robot seq level bus s
  | .liftDone robot seq level load bus => Sys2Proof.Machine.execLiftDone robot seq level load bus s
  | .position robot x y bus => Sys2Proof.Machine.execPosition robot x y bus s
  | .fault robot bus => Sys2Proof.Machine.execFault robot bus s
  | .beacon bus => Sys2Proof.Machine.execBeacon bus s
  | .transmitStart => Sys2Proof.Machine.execTransmitStart s
  | .frameSent => Sys2Proof.Machine.execFrameSent s

end Sys2Proof.Machine
end

