-- ==== Sys2Proof/Safety.lean ====
section
/-!
DEFINITION. What a good state of the G40 is, in the terms the statements use: the laws of its tables, registers, ring and
host memory; and which part of a command is the host's and the bus's.
-/

namespace Sys2Proof

/-- What the host and the bus do while a command runs; nothing for a command that makes no exchange access. -/
def Instr.bus : Instr → Bus
  | .powerOnReset | .reset | .runClear | .clearMode _ | .eventsRead | .eventsWrite _ | .eventMaskWrite _
  | .exchangeBaseWrite _ | .tick | .transmitStart | .frameSent => {}
  | .runSet bus | .hold bus | .resume bus | .nudge _ bus | .chainStart _ bus | .registerWrite _ _ bus | .chainPoll bus
  | .stepWarn _ _ bus | .buryWarn _ bus | .placeLimit _ bus | .giveApproachLimit _ bus | .giveWaitLimit _ _ bus
  | .giveActLimit _ _ bus | .takeApproachLimit _ bus | .restLimit _ bus | .takeActLimit _ bus | .buryLimit _ bus
  | .queryLimit _ bus | .exposureExpiry _ bus | .silenceLimit bus | .debounceExpiry _ bus | .frameAbandon _ bus
  | .rawLineChange _ _ bus | .badFrame _ bus | .arrived _ _ _ _ bus | .refused _ _ bus | .setDone _ _ _ bus
  | .liftDone _ _ _ _ bus | .position _ _ _ bus | .fault _ bus | .beacon bus => bus

/-- The commands that are resets: POWER_ON_RESET, RESET, and a write to CONTROL with RESET set (R170, R173). -/
def Instr.isReset : Instr → Bool
  | .powerOnReset | .reset => true
  | .registerWrite offset value _ => offset == 0x04 && value.getLsbD 1
  | .runSet _ | .runClear | .hold _ | .resume _ | .clearMode _ | .eventsRead | .eventsWrite _ | .eventMaskWrite _
  | .nudge _ _ | .chainStart _ _ | .exchangeBaseWrite _ | .tick | .chainPoll _ | .stepWarn _ _ _ | .buryWarn _ _
  | .placeLimit _ _ | .giveApproachLimit _ _ | .giveWaitLimit _ _ _ | .giveActLimit _ _ _ | .takeApproachLimit _ _
  | .restLimit _ _ | .takeActLimit _ _ | .buryLimit _ _ | .queryLimit _ _ | .exposureExpiry _ _ | .silenceLimit _
  | .debounceExpiry _ _ | .frameAbandon _ _ | .rawLineChange _ _ _ | .badFrame _ _ | .arrived _ _ _ _ _
  | .refused _ _ _ | .setDone _ _ _ _ | .liftDone _ _ _ _ _ | .position _ _ _ _ | .fault _ _ | .beacon _
  | .transmitStart | .frameSent => false

/-- The commands that reset the part: the resets, and those during which a reset arrives (R173). -/
def Instr.resets (c : Instr) : Bool := c.isReset || c.bus.reset.isSome

/-- The commands of the fleet link and of the clocks: what arrives from a robot, and the expiries of the step timers, the
exposure clocks and the silence limit. -/
def Instr.isHop : Instr → Bool
  | .stepWarn _ _ _ | .buryWarn _ _ | .placeLimit _ _ | .giveApproachLimit _ _ | .giveWaitLimit _ _ _
  | .giveActLimit _ _ _ | .takeApproachLimit _ _ | .restLimit _ _ | .takeActLimit _ _ | .buryLimit _ _
  | .queryLimit _ _ | .exposureExpiry _ _ | .silenceLimit _ | .frameAbandon _ _ | .badFrame _ _ | .arrived _ _ _ _ _
  | .refused _ _ _ | .setDone _ _ _ _ | .liftDone _ _ _ _ _ | .position _ _ _ _ | .fault _ _ | .beacon _ => true
  | .powerOnReset | .reset | .runSet _ | .runClear | .hold _ | .resume _ | .clearMode _ | .eventsRead | .eventsWrite _
  | .eventMaskWrite _ | .nudge _ _ | .chainStart _ _ | .exchangeBaseWrite _ | .registerWrite _ _ _ | .tick
  | .chainPoll _ | .debounceExpiry _ _ | .rawLineChange _ _ _ | .transmitStart | .frameSent => false

namespace Machine

/-- Host memory has its canonical form. -/
def MemoryLaw (s : State) : Prop := Memory.wf s.mem = true

/-- The places of EVENTS and EVENT_MASK that are not named read 0 (R184). -/
def ReservedLaw (s : State) : Prop := s.events &&& ~~~eventPlaces = 0#32 ∧ s.eventMask &&& ~~~eventPlaces = 0#32

/-- At most 128 relays are active at once, each with its own tag and its own slot (R84). -/
def RelayTableLaw (s : State) : Prop :=
  s.relays.length ≤ Config.relayMax ∧ (s.relays.map Relay.tag).Nodup ∧ (s.relays.map Relay.slot).Nodup

/-- At most 96 robots are declared, each with its own id, kept in ascending order (R100). -/
def RobotTableLaw (s : State) : Prop :=
  s.robots.length ≤ Config.robotMax ∧ (s.robots.map Robot.id).Pairwise (· < ·)

/-- The values kept from a start are in the ranges of R158, and both ring indices name an entry of the ring (R160,
R168). -/
def KeptLaw (s : State) : Prop :=
  ∀ k ∈ s.kept, 16 ≤ k.slotCount ∧ k.slotCount ≤ 256 ∧ 64 ≤ k.noticeCount ∧ k.noticeCount ≤ 1024
    ∧ 1 ≤ k.pollInterval ∧ k.firstSlot < k.slotCount ∧ k.writeIndex < k.noticeCount ∧ k.takeIndex < k.noticeCount

/-- The laws of a stack record: resting plus pending entries never exceed the capacity (R4); the wait list never holds the
same robot twice and never more than twice the capacity in entries (R12). -/
def StackRec.Sound (k : StackRec) : Prop :=
  k.resting.length + k.pend.length ≤ k.capacity ∧ k.waits.length ≤ 2 * k.capacity ∧ (k.waits.map Access.robot).Nodup

/-- Every stack record keeps its laws (R4, R12). -/
def StackLaw (s : State) : Prop := ∀ k ∈ s.stackRecs, k.Sound

/-- There are 64 stacks, 32 lines and 8 standby queues (R1, R106, R148). -/
def SizesLaw (s : State) : Prop :=
  s.stackRecs.length = Config.stackCount ∧ s.lines.length = Config.lineCount ∧ s.standby.length = Config.districtCount

/-- What no report, fault, warn or expiry changes: the tick counter and its period, the tuning, the lines and hold, and
the registers and cursor of the Exchange Port that the host and the polls move. -/
def SameSettings (s t : State) : Prop :=
  t.tick = s.tick ∧ t.tickPeriod = s.tickPeriod ∧ t.tuning = s.tuning ∧ t.lines = s.lines ∧ t.hold = s.hold
    ∧ t.run = s.run ∧ t.clearMode = s.clearMode ∧ t.eventMask = s.eventMask ∧ t.exchangeBase = s.exchangeBase
    ∧ t.cursor = s.cursor ∧ t.pollCount = s.pollCount ∧ t.pollDue = s.pollDue ∧ t.readData = s.readData
    ∧ t.pending = s.pending

/-- A relay has ended, or its end is pending with this outcome (R63, R65). -/
def Ending (t : Tag) (code : Code) (s : State) : Prop := ∀ r, getRelay s t = some r → r.endPending = some code

/-- The bins of a stack, bottom to top. -/
def binsOf (s : State) (i : Nat) : List BinId := (getStack s i).resting.map RestEntry.bin

/-- The take index that stands in the header (R158). -/
def takeIndexRead (s : State) : Nat := word16At (Memory.bytes s.mem (s.exchangeBase.toNat + 30) 2) 0

/-- The kept values after a reading of the take index: one not below the notice count is not kept (R163). -/
def Kept.reread (s : State) (k : Kept) : Kept :=
  if takeIndexRead s < k.noticeCount then { k with takeIndex := takeIndexRead s } else k

/-- What a poll that takes no slot leaves: the poll count at 0 and the take index read (R163). -/
def afterEmptyPoll (s : State) : State :=
  { s with pollCount := 0, kept := s.kept.map (Kept.reread s), bus := {}, busCount := 0 }

/-- The link that a slot's link field holds. -/
def linkOf (s : State) (k : Kept) (a : Nat) : Nat := word16At (Memory.bytes s.mem (k.slotAddr a + 2) 2) 0

/-- A slot is POSTED in host memory. -/
def isPosted (s : State) (k : Kept) (i : Nat) : Prop := Memory.get s.mem (k.slotAddr i) = 1#8

/-- A walk from the cursor ends at once: the slot to be taken next is not POSTED, or the anchor's link is END (R164). -/
def walkEnds (s : State) (k : Kept) : Prop :=
  match s.cursor with
  | some (.before i) => ¬isPosted s k i
  | some (.anchor a) => linkOf s k a = Config.linkEnd
  | none => True

/-- A walk from the cursor finds a slot POSTED to be taken next (R164), after this many accesses of the poll, the reading of
the take index among them. -/
def walkFinds (s : State) (k : Kept) (slot accesses : Nat) : Prop :=
  match s.cursor with
  | some (.before i) => slot = i ∧ accesses = 2 ∧ isPosted s k i
  | some (.anchor a) => slot = linkOf s k a ∧ accesses = 3 ∧ slot ≠ Config.linkEnd ∧ slot < k.slotCount ∧ slot ≠ a
      ∧ isPosted s k slot
  | none => False

/-- What a poll leaves whose walk takes a slot and goes on from it (R163, R164). -/
def afterTaking (k : Kept) (slot accesses : Nat) (s : State) : State :=
  let s1 := takeSlot k slot { s with pollCount := 0, kept := s.kept.map (Kept.reread s), bus := {}, busCount := accesses }
  endBus (if faulted s1 then s1 else walk (k.slotCount + 1) k s1)

/-- The bin of a stack's holder that is setting down (R18 step 3). -/
def setDownPends (k : StackRec) (b : BinId) : Prop := ∃ h, k.holder = some h ∧ h.purpose.isSet = true ∧ h.bin = b

/-- A command in which only the host's own writes to its memory happen. -/
def hostOnly (bus : Bus) (s : State) : State := endBus (beginBus bus s)

/-- CONTROL.RUN reads 1 in RUNNING and BROKEN and 0 in IDLE and STOPPED (R161). -/
def RunLaw (s : State) : Prop :=
  match s.device with
  | .running | .broken => s.run = true
  | .idle | .stopped => s.run = false
  | .exchangeFault => True

end Machine

end Sys2Proof
end

