-- ==== Sys2Proof/Certificates/Slice0/Obligations.lean ====
section
/-!
DEFINITION. The statements about the model, from the numbered rules of the manual. OBLIGATIONS.json lists them.

A premise `bus.reset = none` says that no reset arrives while the command runs; what a command leaves that a reset cuts short
is `SoftResetKeepsBaseAndTick`.
-/

open Sys2Proof Sys2Proof.Machine

/-! ## The queue and the resets -/

/-- A step runs the command at the front of the queue with the queue's rest, and idles on an empty queue (log 1: the
queue and the idling are the model's choice). -/
def Obligations.StepRunsFrontCommand : Prop :=
  (∀ (c : Instr) (s : State), step { s with pending := c :: s.pending } = exec c s) ∧
  ∀ s : State, s.pending = [] → step s = .next s

/-- POWER_ON_RESET completes in every state and leaves every block as its reset rule gives. Host memory, the raw level of
each line and the waiting commands are outside the part and stand (log 9, log 10). -/
def Obligations.PowerOnResetLeaves : Prop :=
  ∀ s : State, ∃ t : State, exec .powerOnReset s = .next t ∧
    t.stackRecs = List.replicate 64 {} ∧ t.placeWait = [] ∧ t.relays = [] ∧ t.robots = [] ∧
    t.standby = List.replicate 8 [] ∧ t.tick = 0#32 ∧ t.tickPeriod = none ∧
    t.tuning.wd = 1 ∧ t.tuning.wb = 4 ∧ t.tuning.wf = 8 ∧ t.tuning.wz = 128 ∧
    t.tuning.tolAbs = 250 ∧ t.tuning.tolRel = 32 ∧ t.tuning.silenceLimit = 50 ∧
    t.tuning.timing = List.replicate 4 [⟨1000, 6000⟩, ⟨1500, 6000⟩, ⟨1000, 6000⟩, ⟨300, 1200⟩, ⟨1500, 6000⟩,
      ⟨2000, 12000⟩, ⟨300, 1200⟩, ⟨400, 8000⟩, ⟨3000, 0⟩] ∧
    t.linkUp = false ∧ t.silence = 0 ∧ t.outq = [] ∧ t.tx = none ∧ t.rx = [] ∧
    t.lines = s.lines.map (fun l => { raw := l.raw }) ∧ t.hold = false ∧
    t.device = .idle ∧ t.run = false ∧ t.clearMode = false ∧ t.events = 0#32 ∧ t.eventMask = 0#32 ∧
    interruptLine t = false ∧ t.exchangeBase = 0#64 ∧ t.kept = none ∧ t.cursor = none ∧ t.pollCount = 0 ∧
    t.gap = none ∧ t.mem = s.mem ∧ t.pending = s.pending

/-- RESET completes in every state and leaves what a power-on reset leaves, but for EXCHANGE_BASE, the tick counter and
the tick period, which it keeps. A command during which a reset arrives ends with that reset (log 52): it leaves what the
reset leaves. A reset that arrives before the first exchange access leaves host memory unchanged where the host writes nothing. A NUDGE
whose walk finds a slot POSTED and which is cut before TAKEN is written leaves memory, and so the slot, as it was. A start
that is cut when the write of the write index has begun completes that write, and the line image is not written. -/
def Obligations.SoftResetKeepsBaseAndTick : Prop :=
  (∀ s : State, ∃ t u : State, exec .reset s = .next t ∧ exec .powerOnReset s = .next u ∧
    t.exchangeBase = s.exchangeBase ∧ t.tick = s.tick ∧ t.tickPeriod = s.tickPeriod ∧
    { t with exchangeBase := 0#64, tick := 0#32, tickPeriod := none } = u) ∧
  (∀ (c : Instr) (s t : State) (r : ArrivingReset), c.bus.reset = some r → exec c s = .next t →
    (r.kind = .powerOn → exec .powerOnReset t = .next t) ∧ (r.kind = .soft → exec .reset t = .next t)) ∧
  (∀ (c : Instr) (s t : State) (k : ResetKind), c.bus.reset = some ⟨k, 0⟩ → c.bus.writes = [] →
    exec c s = .next t → t.mem = s.mem) ∧
  (∀ (s : State) (k : Kept) (slot n m : Nat) (v : BitVec 32) (kind : ResetKind), s.kept = some k → s.gap = none →
    s.device = .running → walkFinds s k slot n → m ≤ n + 1 →
    ∃ t : State, exec (.nudge v { reset := some ⟨kind, m⟩ }) s = .next t ∧ t.mem = s.mem ∧ t.device = .idle) ∧
  ∀ (s : State) (h : Header), s.device = .idle → s.exchangeBase ≠ 0#64 → s.exchangeBase.toNat % 64 = 0 →
    h = Header.ofBytes (Memory.bytes s.mem s.exchangeBase.toNat 64) → h.passes s.exchangeBase.toNat = true →
    ∃ t u : State, exec (.runSet { reset := some ⟨.soft, 2⟩ }) s = .next t ∧
      t.mem = Memory.put s.mem (s.exchangeBase.toNat + 28) (le16 h.takeIndex) ∧
      t.tickPeriod = tickPeriodOf h.tickRate ∧ exec .reset s = .next u ∧
      { t with mem := u.mem, tickPeriod := u.tickPeriod, bus := u.bus, busCount := u.busCount } = u

/-- The state after reset meets every law that a step keeps. -/
def Obligations.ResetMeetsLaws : Prop :=
  MemoryLaw State.reset ∧ RelayTableLaw State.reset ∧ RobotTableLaw State.reset ∧ StackLaw State.reset ∧
  SizesLaw State.reset ∧ KeptLaw State.reset ∧ ReservedLaw State.reset ∧ RunLaw State.reset

/-! ## Registers -/

/-- EVENTS_READ, EVENTS_WRITE, CLEAR_MODE, EVENT_MASK_WRITE, EXCHANGE_BASE_WRITE and RUN_CLEAR complete in every state, with
the effect of their register and nothing else: read-clear and write-one-clear, the interrupt line as the common bits of
EVENTS and EVENT_MASK, EXCHANGE_BASE taken in IDLE only, and RUN cleared in RUNNING and BROKEN, which become STOPPED with
the cursor kept. Places that are not named are not stored (log 10: the value read is kept in the model's own field; log 6:
a poll that has come due lapses with RUNNING). -/
def Obligations.RegisterCommandsAct : Prop :=
  (∀ s : State, exec .eventsRead s =
    .next { s with readData := s.events, events := if s.clearMode then s.events else 0#32 }) ∧
  (∀ (v : BitVec 32) (s : State), s.clearMode = true →
    exec (.eventsWrite v) s = .next { s with events := s.events &&& ~~~v }) ∧
  (∀ (v : BitVec 32) (s : State), s.clearMode = false → exec (.eventsWrite v) s = .next s) ∧
  (∀ (m : Bool) (s : State), exec (.clearMode m) s = .next { s with clearMode := m }) ∧
  (∀ (v : BitVec 32) (s : State), ∃ t : State, exec (.eventMaskWrite v) s = .next t ∧
    t = { s with eventMask := v &&& 0x7F#32 } ∧
    (interruptLine t = true ↔ s.events &&& (v &&& 0x7F#32) ≠ 0#32)) ∧
  (∀ (v : BitVec 64) (s : State), s.device = .idle →
    exec (.exchangeBaseWrite v) s = .next { s with exchangeBase := v }) ∧
  (∀ (v : BitVec 64) (s : State), s.device ≠ .idle → exec (.exchangeBaseWrite v) s = .next s) ∧
  (∀ s : State, s.device = .running ∨ s.device = .broken →
    exec .runClear s = .next { s with run := false, device := .stopped, pollDue := false }) ∧
  ∀ s : State, s.device = .idle ∨ s.device = .stopped ∨ s.device = .exchangeFault → exec .runClear s = .next s

/-- REGISTER_WRITE completes at every offset. A write to CONTROL with RESET set is a soft reset in which no other field
acts; without it CLEAR_MODE, RUN, HOLD and RESUME act in this order, RUN only when its value differs from the present one.
So a write that leaves RUN as it is and sets neither HOLD nor RESUME writes CLEAR_MODE alone, and one that also changes RUN,
or sets HOLD, or sets RESUME acts as that field's own command does after it. NUDGE, CHAIN_START, EVENTS, EVENT_MASK and
EXCHANGE_BASE act as their own commands; a write to any other offset is not acted on. -/
def Obligations.RegisterWriteActsByOffset : Prop :=
  (∀ (v : BitVec 64) (bus : Bus) (s : State), bus.reset = none → v.getLsbD 1 = true →
    exec (.registerWrite 0x04 v bus) s = .next (endBus (softReset (beginBus bus s)))) ∧
  (∀ (v : BitVec 64) (bus : Bus) (s : State), bus.reset = none →
      v.getLsbD 1 = false → v.getLsbD 0 = s.run → v.getLsbD 2 = false →
    v.getLsbD 3 = false →
    exec (.registerWrite 0x04 v bus) s = .next { hostOnly bus s with clearMode := v.getLsbD 4 }) ∧
  (∀ (v : BitVec 64) (bus : Bus) (s s0 s1 s2 s3 : State), bus.reset = none → v.getLsbD 1 = false →
    s0 = { beginBus bus s with clearMode := v.getLsbD 4 } →
    s1 = (if v.getLsbD 0 = s.run then s0 else if v.getLsbD 0 then setRun s0 else clearRun s0) →
    s2 = (if v.getLsbD 2 then writeHold s1 else s1) → s3 = (if v.getLsbD 3 then writeResume s2 else s2) →
    exec (.registerWrite 0x04 v bus) s = .next (endBus s3)) ∧
  (∀ (v : BitVec 64) (bus : Bus) (s u : State), bus.reset = none →
      v.getLsbD 1 = false → u = { s with clearMode := v.getLsbD 4 } →
    (v.getLsbD 0 = true → s.run = false → v.getLsbD 2 = false → v.getLsbD 3 = false →
      exec (.registerWrite 0x04 v bus) s = exec (.runSet bus) u) ∧
    (v.getLsbD 0 = false → s.run = true → v.getLsbD 2 = false → v.getLsbD 3 = false →
      ∃ t : State, exec .runClear u = .next t ∧ exec (.registerWrite 0x04 v bus) s = .next (hostOnly bus t)) ∧
    (v.getLsbD 0 = s.run → v.getLsbD 2 = true → v.getLsbD 3 = false →
      exec (.registerWrite 0x04 v bus) s = exec (.hold bus) u) ∧
    (v.getLsbD 0 = s.run → v.getLsbD 2 = false → v.getLsbD 3 = true →
      exec (.registerWrite 0x04 v bus) s = exec (.resume bus) u)) ∧
  (∀ (v : BitVec 64) (bus : Bus) (s : State), bus.reset = none →
    exec (.registerWrite 0x14 v bus) s = exec (.nudge (v.setWidth 32) bus) s ∧
    exec (.registerWrite 0x18 v bus) s = exec (.chainStart (v.setWidth 32) bus) s) ∧
  (∀ (v : BitVec 64) (bus : Bus) (s : State), bus.reset = none → ∃ t : State,
    exec (.eventsWrite (v.setWidth 32)) s = .next t ∧
    exec (.registerWrite 0x0C v bus) s = .next (hostOnly bus t)) ∧
  (∀ (v : BitVec 64) (bus : Bus) (s : State), bus.reset = none → ∃ t : State,
    exec (.eventMaskWrite (v.setWidth 32)) s = .next t ∧
    exec (.registerWrite 0x10 v bus) s = .next (hostOnly bus t)) ∧
  (∀ (v : BitVec 64) (bus : Bus) (s : State), bus.reset = none → ∃ t : State,
    exec (.exchangeBaseWrite v) s = .next t ∧ exec (.registerWrite 0x20 v bus) s = .next (hostOnly bus t)) ∧
  ∀ (offset : Nat) (v : BitVec 64) (bus : Bus) (s : State), bus.reset = none →
    offset ∉ [0x04, 0x0C, 0x10, 0x14, 0x18, 0x20] →
    exec (.registerWrite offset v bus) s = .next (hostOnly bus s)

/-! ## Starts and polls -/

/-- RUN_SET in IDLE fails the start when EXCHANGE_BASE is 0 or not a multiple of 64, without a memory read, and when the
header read there does not pass its checks: START_FAIL is set, RUN is clear and the device stays IDLE. The second clause
is for a command in which the host writes nothing and no bus error occurs. A tick rate code above 7 fails the checks too
(log 43: R159 lists codes 6 and 7; the rest is the model's deduction). -/
def Obligations.StartFails : Prop :=
  (∀ (bus : Bus) (s : State), bus.reset = none →
      s.device = .idle → s.exchangeBase = 0#64 ∨ s.exchangeBase.toNat % 64 ≠ 0 →
    exec (.runSet bus) s = .next { hostOnly bus s with run := false, events := s.events ||| 0x20#32 }) ∧
  ∀ s : State, s.device = .idle → s.exchangeBase ≠ 0#64 → s.exchangeBase.toNat % 64 = 0 →
    (Header.ofBytes (Memory.bytes s.mem s.exchangeBase.toNat 64)).passes s.exchangeBase.toNat = false →
    exec (.runSet {}) s = .next { hostOnly {} s with run := false, events := s.events ||| 0x20#32 }

/-- RUN_SET in IDLE with a header that passes, the first slot not POSTED, starts the part: the header's values are kept,
the ring is empty at the take index read, the write index and the line image are written into the header, and the device
is RUNNING with the cursor at BEFORE(first slot). No other byte of memory and no other field changes. -/
def Obligations.StartKeepsHeaderAndRuns : Prop :=
  ∀ (s : State) (h : Header), s.device = .idle → s.exchangeBase ≠ 0#64 → s.exchangeBase.toNat % 64 = 0 →
    h = Header.ofBytes (Memory.bytes s.mem s.exchangeBase.toNat 64) → h.passes s.exchangeBase.toNat = true →
    Memory.get s.mem (h.slotBase + 160 * h.firstSlot) ≠ 1#8 →
    exec (.runSet {}) s = .next { s with
      run := true, device := .running, tickPeriod := tickPeriodOf h.tickRate
      kept := some { slotCount := h.slotCount, slotBase := h.slotBase, noticeCount := h.noticeCount,
                     ringBase := h.ringBase, pollInterval := max 1 h.pollInterval, firstSlot := h.firstSlot,
                     writeIndex := h.takeIndex, takeIndex := h.takeIndex }
      cursor := some (.before h.firstSlot), pollCount := 0, pollDue := false, gap := none
      mem := Memory.put (Memory.put s.mem (s.exchangeBase.toNat + 28) (le16 h.takeIndex)) (s.exchangeBase.toNat + 32)
        (le32 (lineImage s))
      bus := {}, busCount := 0 }

/-- NUDGE and CHAIN_POLL in RUNNING, RUN_SET in STOPPED and CHAIN_START in STOPPED or BROKEN with an index below the slot
count take a poll; where no slot is found POSTED and no gap is open, the poll sets the poll count to 0 and keeps the take
index read, the device is RUNNING, and nothing else changes (log 6: a nudged poll leaves an interval's poll due). -/
def Obligations.PollFindsNothing : Prop :=
  (∀ (s : State) (k : Kept) (v : BitVec 32), s.kept = some k → s.gap = none → s.device = .running → walkEnds s k →
    exec (.nudge v {}) s = .next (afterEmptyPoll s)) ∧
  (∀ (s : State) (k : Kept), s.kept = some k → s.gap = none → s.device = .running → walkEnds s k → s.pollDue = true →
    exec (.chainPoll {}) s = .next { afterEmptyPoll s with pollDue := false }) ∧
  (∀ (s : State) (k : Kept), s.kept = some k → s.gap = none → s.device = .stopped → walkEnds s k →
    exec (.runSet {}) s = .next { afterEmptyPoll s with run := true, device := .running }) ∧
  ∀ (s : State) (k : Kept) (v : BitVec 32), s.kept = some k → s.gap = none →
    s.device = .stopped ∨ s.device = .broken → v.toNat % 65536 < k.slotCount → ¬isPosted s k (v.toNat % 65536) →
    exec (.chainStart v {}) s = .next { afterEmptyPoll s with
      run := true, device := .running, cursor := some (.before (v.toNat % 65536)) }

/-- A poll that finds the anchor's link out of range, naming the anchor itself, or naming a slot that is not POSTED ends
the walk with the cursor kept at the anchor, enters BROKEN and sets CHAIN (log 6: a poll that has come due lapses with
RUNNING, the model's choice). -/
def Obligations.BrokenLinkStopsIntake : Prop :=
  ∀ (s : State) (k : Kept) (a : Nat) (v : BitVec 32), s.kept = some k → s.gap = none → s.device = .running →
    s.cursor = some (.anchor a) → linkOf s k a ≠ 0xFFFF →
    k.slotCount ≤ linkOf s k a ∨ linkOf s k a = a ∨ ¬isPosted s k (linkOf s k a) →
    exec (.nudge v {}) s = .next { afterEmptyPoll s with
      device := .broken, events := s.events ||| 0x04#32, pollDue := false }

/-- The commands that a device state ignores change nothing but what the host itself writes: NUDGE outside RUNNING;
CHAIN_START outside STOPPED and BROKEN, or with an index not below the slot count; RUN_SET in RUNNING, BROKEN and
EXCHANGE_FAULT; HOLD and RESUME in IDLE; and CHAIN_POLL when no poll has come due (log 6). -/
def Obligations.IgnoredCommandsChangeNothing : Prop :=
  (∀ (v : BitVec 32) (bus : Bus) (s : State), bus.reset = none → s.device ≠ .running →
    exec (.nudge v bus) s = .next (hostOnly bus s)) ∧
  (∀ (v : BitVec 32) (bus : Bus) (s : State), bus.reset = none →
      s.device = .idle ∨ s.device = .running ∨ s.device = .exchangeFault →
    exec (.chainStart v bus) s = .next (hostOnly bus s)) ∧
  (∀ (v : BitVec 32) (bus : Bus) (s : State) (k : Kept), bus.reset = none →
      s.kept = some k → k.slotCount ≤ v.toNat % 65536 →
    exec (.chainStart v bus) s = .next (hostOnly bus s)) ∧
  (∀ (bus : Bus) (s : State), bus.reset = none → s.device = .running ∨ s.device = .broken ∨ s.device = .exchangeFault →
    exec (.runSet bus) s = .next (hostOnly bus s)) ∧
  (∀ (bus : Bus) (s : State), bus.reset = none → s.device = .idle →
    exec (.hold bus) s = .next (hostOnly bus s) ∧ exec (.resume bus) s = .next (hostOnly bus s)) ∧
  ∀ (bus : Bus) (s : State), bus.reset = none → s.pollDue = false → exec (.chainPoll bus) s = .next (hostOnly bus s)

/-- A slot found POSTED is read, TAKEN is written into its ownership byte alone, the cursor goes to it, and it is
dispatched by its kind, tag and body. A request that ends at once gets its code with the tick counter as its end tick, hop
0, no place and no flags, then the ownership ENDED, then its OUTCOME notice. A poll whose cursor names a POSTED slot, at
BEFORE or by the anchor's link, takes that slot and the walk goes on from it: the poll of NUDGE and CHAIN_POLL in RUNNING,
of RUN_SET in STOPPED, of CHAIN_START in STOPPED or BROKEN, and of a start whose first slot is POSTED. These clauses are for
a command in which the host writes nothing and no bus error occurs. -/
def Obligations.PostedSlotTakenAndEnded : Prop :=
  (∀ (s : State) (k : Kept) (slot : Nat), s.device ≠ .exchangeFault → s.bus.errorAt = none → s.bus.writes = [] →
    takeSlot k slot s = dispatch slot (Memory.get s.mem (k.slotAddr slot + 1)).toNat
      (BitVec.ofNat 32 (word32At (Memory.bytes s.mem (k.slotAddr slot + 4) 4) 0))
      (Memory.bytes s.mem (k.slotAddr slot + 8) 136)
      { s with mem := Memory.put s.mem (k.slotAddr slot) [2#8], cursor := some (.anchor slot)
               busCount := s.busCount + 2 }) ∧
  (∀ (s : State) (k : Kept) (slot : Nat) (tag : Tag) (code : Code) (o : Machine.Outcome), exchangeOpen s = true →
    s.kept = some k → s.bus.errorAt = none → s.bus.writes = [] →
    o = { code := code, endTick := s.tick, hop := 0, place := .none, flags := {} } →
    endRequest slot tag code s = notify (outcomeNotice tag slot 0#32 o) { s with
      mem := Memory.put (Memory.put s.mem (k.slotAddr slot + 144) o.bytes) (k.slotAddr slot) [3#8]
      busCount := s.busCount + 2 }) ∧
  (∀ (s : State) (k : Kept) (slot n : Nat) (v : BitVec 32), s.kept = some k → s.gap = none → s.device = .running →
    walkFinds s k slot n → exec (.nudge v {}) s = .next (afterTaking k slot n s)) ∧
  (∀ (s : State) (k : Kept) (slot n : Nat), s.kept = some k → s.gap = none → s.device = .running → s.pollDue = true →
    walkFinds s k slot n → exec (.chainPoll {}) s = .next (afterTaking k slot n { s with pollDue := false })) ∧
  (∀ (s : State) (k : Kept) (slot n : Nat), s.kept = some k → s.gap = none → s.device = .stopped →
    walkFinds s k slot n →
    exec (.runSet {}) s = .next (afterTaking k slot n { s with run := true, device := .running })) ∧
  (∀ (s : State) (k : Kept) (v : BitVec 32) (slot : Nat), s.kept = some k → s.gap = none →
    s.device = .stopped ∨ s.device = .broken → slot = v.toNat % 65536 → slot < k.slotCount → isPosted s k slot →
    exec (.chainStart v {}) s = .next (afterTaking k slot 2 { s with
      cursor := some (.before slot), run := true, device := .running })) ∧
  ∀ (s : State) (h : Header), s.device = .idle → s.exchangeBase ≠ 0#64 → s.exchangeBase.toNat % 64 = 0 →
    h = Header.ofBytes (Memory.bytes s.mem s.exchangeBase.toNat 64) → h.passes s.exchangeBase.toNat = true →
    Memory.get s.mem (h.slotBase + 160 * h.firstSlot) = 1#8 →
    exec (.runSet {}) s = .next (afterTaking h.kept h.firstSlot 5 { s with
      run := true, device := .running, tickPeriod := tickPeriodOf h.tickRate, kept := some h.kept
      cursor := some (.before h.firstSlot), pollCount := 0, pollDue := false, gap := none
      mem := Memory.put (Memory.put s.mem (s.exchangeBase.toNat + 28) (le16 h.takeIndex)) (s.exchangeBase.toNat + 32)
        (le32 (lineImage s)) })

/-- A request that is refused changes no state; a kind that is none of the ten is refused KIND, and a request in the slot
of an active relay is refused BUSY before its body is read. -/
def Obligations.RefusedRequestChangesNothing : Prop :=
  (∀ (slot kind : Nat) (tag : Tag) (body : List Byte) (s t : State) (code : Code),
    runSlot slot kind tag body s = (some code, t) → code ≠ .done → t = s) ∧
  (∀ (slot kind : Nat) (tag : Tag) (body : List Byte) (s : State), kind < 1 ∨ 10 < kind →
    runSlot slot kind tag body s = (some .kind, s)) ∧
  ∀ (slot kind : Nat) (tag : Tag) (body : List Byte) (s : State), 1 ≤ kind → kind ≤ 10 →
    (∃ r ∈ s.relays, r.slot = slot) → runSlot slot kind tag body s = (some .busy, s)

/-! ## Notices and slots -/

/-- A notice handed over while the ring has room is written into the entry at the write index; the index is advanced by
one, modulo the notice count, and written into the header; NOTICE is set; no other byte and no other field changes. A
notice that meets a ring full by the kept take index and by the take index read again is discarded: the gap flag is set,
with the tick counter as its start if it was clear, RING_FULL is set, and memory is unchanged. In IDLE and EXCHANGE_FAULT
a notice is discarded without a trace. -/
def Obligations.NoticeAppendedOrDiscarded : Prop :=
  (∀ (s : State) (k : Kept) (n : Notice), exchangeOpen s = true → s.kept = some k →
    (k.writeIndex + 1) % k.noticeCount ≠ k.takeIndex → s.gap = none → s.bus.errorAt = none → s.bus.writes = [] →
    notify n s = { s with
      mem := Memory.put (Memory.put s.mem (k.ringBase + 32 * k.writeIndex) n.bytes) (s.exchangeBase.toNat + 28)
        (le16 ((k.writeIndex + 1) % k.noticeCount))
      kept := some { k with writeIndex := (k.writeIndex + 1) % k.noticeCount }
      events := s.events ||| 0x01#32, busCount := s.busCount + 2 }) ∧
  (∀ (s : State) (k : Kept) (n : Notice), exchangeOpen s = true → s.kept = some k →
    (k.writeIndex + 1) % k.noticeCount = k.takeIndex →
    (k.writeIndex + 1) % k.noticeCount = (Kept.reread s k).takeIndex → s.bus.errorAt = none → s.bus.writes = [] →
    notify n s = { s with
      kept := some (Kept.reread s k), gap := some (s.gap.getD s.tick), events := s.events ||| 0x02#32
      busCount := s.busCount + 1 }) ∧
  ∀ (s : State) (n : Notice), s.device = .idle ∨ s.device = .exchangeFault → notify n s = s

/-- With the gap flag set and room in the ring, a GAP notice with the gap's start goes before the notice and the flag is
cleared; if the ring is then full, the notice is discarded and a new gap starts at the tick counter. -/
def Obligations.GapGoesFirst : Prop :=
  ∀ (s : State) (k : Kept) (n : Notice) (start : Tick), exchangeOpen s = true → s.kept = some k →
    (k.writeIndex + 1) % k.noticeCount ≠ k.takeIndex → s.gap = some start → s.bus.errorAt = none →
    s.bus.writes = [] →
    let w1 := (k.writeIndex + 1) % k.noticeCount
    let w2 := (w1 + 1) % k.noticeCount
    let m1 := Memory.put (Memory.put s.mem (k.ringBase + 32 * k.writeIndex) (gapNotice s.tick start).bytes)
      (s.exchangeBase.toNat + 28) (le16 w1)
    (w2 ≠ k.takeIndex → notify n s = { s with
      mem := Memory.put (Memory.put m1 (k.ringBase + 32 * w1) n.bytes) (s.exchangeBase.toNat + 28) (le16 w2)
      kept := some { k with writeIndex := w2 }, gap := none, events := s.events ||| 0x01#32
      busCount := s.busCount + 4 }) ∧
    (w2 = k.takeIndex → notify n s = { s with
      mem := m1, kept := some { k with writeIndex := w1 }, gap := some s.tick, events := s.events ||| 0x03#32
      busCount := s.busCount + 2 })

/-- The slot of a relay that is still TAKEN gets its outcome fields and then the ownership ENDED; one that the host has
taken back gets nothing; the OUTCOME notice is appended in both cases. -/
def Obligations.RelaySlotEnded : Prop :=
  (∀ (s : State) (k : Kept) (slot : Nat) (tag : Tag) (bin : BinId) (o : Machine.Outcome), exchangeOpen s = true →
    s.kept = some k → s.bus.errorAt = none → s.bus.writes = [] → Memory.get s.mem (k.slotAddr slot) = 2#8 →
    endRelaySlot slot tag bin o s = notify (outcomeNotice tag slot bin o) { s with
      mem := Memory.put (Memory.put s.mem (k.slotAddr slot + 144) o.bytes) (k.slotAddr slot) [3#8]
      busCount := s.busCount + 3 }) ∧
  ∀ (s : State) (k : Kept) (slot : Nat) (tag : Tag) (bin : BinId) (o : Machine.Outcome), exchangeOpen s = true →
    s.kept = some k → s.bus.errorAt = none → s.bus.writes = [] → Memory.get s.mem (k.slotAddr slot) ≠ 2#8 →
    endRelaySlot slot tag bin o s = notify (outcomeNotice tag slot bin o) { s with busCount := s.busCount + 1 }

/-- An exchange access that meets a bus error enters EXCHANGE_FAULT and sets MEMORY; a write then changes no byte outside
its own field (log 4: which of the field's bytes land is an operand). In EXCHANGE_FAULT no access is made. -/
def Obligations.BusErrorEntersExchangeFault : Prop :=
  (∀ (s : State) (a n : Nat), s.device ≠ .exchangeFault → s.bus.errorAt = some s.busCount →
    (readExchange a n s).1 = none ∧ (readExchange a n s).2.device = .exchangeFault ∧
    (readExchange a n s).2.events = s.events ||| 0x40#32) ∧
  (∀ (s : State) (a : Nat) (bs : List Byte), s.device ≠ .exchangeFault → s.bus.errorAt = some s.busCount →
    s.bus.writes = [] →
    (writeExchange a bs s).device = .exchangeFault ∧ (writeExchange a bs s).events = s.events ||| 0x40#32 ∧
    ∀ x, x < a ∨ a + bs.length ≤ x → Memory.get (writeExchange a bs s).mem x = Memory.get s.mem x) ∧
  ∀ (s : State) (a n : Nat) (bs : List Byte), s.device = .exchangeFault →
    readExchange a n s = (none, s) ∧ writeExchange a bs s = s

/-! ## Placement, stacks and access -/

/-- Placement chooses the candidate of least cost, the lowest stack id among equals, and answers its id and cost; it
answers NONE exactly when there is no candidate. -/
def Obligations.PlacementChoosesLeastCost : Prop :=
  ∀ (s : State) (candidate : Nat → StackRec → Bool) (q : PlaceRequest),
    (choose s candidate q = none ↔ ∀ i < 64, candidate i (getStack s i) = false) ∧
    ∀ i cost, choose s candidate q = some (i, cost) →
      i < 64 ∧ candidate i (getStack s i) = true ∧ cost = placeCost s (getStack s i) q ∧
      ∀ j < 64, candidate j (getStack s j) = true →
        cost ≤ placeCost s (getStack s j) q ∧ (placeCost s (getStack s j) q = cost → i ≤ j)

/-- A bin reservation is made at the tail of the pending list exactly when the stack is ACTIVE, not blocked and has room,
and a blank hold when it is ACTIVE and has room; neither changes another stack or another field. -/
def Obligations.ReservationMadeOrDeclined : Prop :=
  (∀ (s : State) (i : Nat) (bin : BinId) (tag : Option Tag) (district : Option Nat),
    reserve i bin tag district s =
      if (getStack s i).state = .active ∧ (getStack s i).blocked = false ∧
        (getStack s i).resting.length + (getStack s i).pend.length < (getStack s i).capacity
      then some { s with stackRecs := s.stackRecs.modify i fun k => { k with pend := k.pend ++ [.bin bin tag district] } }
      else none) ∧
  ∀ (s : State) (i robot : Nat) (tag : Option Tag),
    blankHold i tag robot s =
      if (getStack s i).state = .active ∧
        (getStack s i).resting.length + (getStack s i).pend.length < (getStack s i).capacity
      then some { s with stackRecs := s.stackRecs.modify i fun k => { k with pend := k.pend ++ [.hold tag robot] } }
      else none

/-- A run of the arbiter grants only on an ACTIVE stack without a holder. It grants the earliest waiting lift of the top
bin, and only without one, on a stack that is not blocked, the earliest waiting set-down; both passes skip a robot that
holds access elsewhere. The granted entry becomes the holder and leaves the wait list. -/
def Obligations.ArbiterGrantsLiftsFirst : Prop :=
  ∀ (s : State) (i : Nat) (k : StackRec), k = getStack s i →
    (k.holder ≠ none ∨ k.state ≠ .active → arbiter i s = s) ∧
    (k.holder = none → k.state = .active → ∀ (a b : List Access) (e : Access), k.waits = a ++ e :: b →
      holdsElsewhere s i e.robot = false →
      ((e.purpose.isSet = false ∧ k.onTop e.bin = true ∧
          ∀ x ∈ a, x.purpose.isSet = true ∨ k.onTop x.bin = false ∨ holdsElsewhere s i x.robot = true) ∨
        (e.purpose.isSet = true ∧ k.blocked = false ∧
          (∀ x ∈ k.waits, x.purpose.isSet = true ∨ k.onTop x.bin = false ∨ holdsElsewhere s i x.robot = true) ∧
          ∀ x ∈ a, x.purpose.isSet = false ∨ holdsElsewhere s i x.robot = true)) →
      arbiterPick s i = some e ∧ (getStack (arbiter i s) i).holder = some e ∧
      (getStack (arbiter i s) i).waits = k.waits.erase e)

/-- A suspect cause takes an ACTIVE stack to SUSPECT and changes nothing at a stack in another state; a level that differs
from the record is such a cause. On the entry the bin reservations are cancelled but for that of a holder that is setting
down, the blank holds stay, bins and holder stand, and the wait list is cleared: the entries that stand in it afterwards are
those of takers whose bin rests there and who have joined again, and every such taker has. The clauses on the reservations
and the wait list are for an entry that cancels no reservation of a shuffle, whose hand-back may end relays. With nothing to
cancel, nobody waiting there and no relay waiting for a placement, the notice is all that follows. -/
def Obligations.SuspectOnlyFromActive : Prop :=
  (∀ (s : State) (i robot : Nat) (c : Cause) (tag : Tag) (bin : BinId), (getStack s i).state = .active →
    (getStack (suspectCause i c tag robot bin s) i).state = .suspect) ∧
  (∀ (s : State) (i robot : Nat) (c : Cause) (tag : Tag) (bin : BinId), (getStack s i).state ≠ .active →
    suspectCause i c tag robot bin s = s) ∧
  (∀ (s : State) (i sensed recorded robot : Nat) (tag : Tag) (bin : BinId), (getStack s i).state = .active →
    ((getStack (levelCheck i sensed recorded tag robot bin s) i).state = .suspect ↔ sensed ≠ recorded)) ∧
  (∀ (s t : State) (i robot : Nat) (c : Cause) (tag : Tag) (bin : BinId) (k : StackRec), k = getStack s i →
    k.state = .active → t = suspectCause i c tag robot bin s →
    (∀ b o d, PendEntry.bin b o d ∈ k.pend → ¬setDownPends k b → shufflingRelay s b = none) →
    (∀ e, e ∈ (getStack t i).pend ↔ e ∈ k.pend ∧ ∀ b o d, e = .bin b o d → setDownPends k b) ∧
    (getStack t i).pend.Sublist k.pend ∧ (getStack t i).resting = k.resting ∧ (getStack t i).holder = k.holder ∧
    (∀ e ∈ (getStack t i).waits, e.purpose = .take ∧ k.rests e.bin = true ∧
      ∃ e' ∈ k.waits, e'.purpose = .take ∧ e'.robot = e.robot ∧ e'.tag = e.tag) ∧
    (k.Sound → ∀ e ∈ k.waits, ∀ r, e.purpose = .take → getRelay s e.tag = some r → r.take.robot = some e.robot →
      r.take.state = .wait ∨ r.take.state = .buried → r.endPending = none → k.rests r.bin = true →
      ({ e with bin := r.bin } : Access) ∈ (getStack t i).waits)) ∧
  ∀ (s : State) (i robot : Nat) (c : Cause) (tag : Tag) (bin : BinId), (getStack s i).state = .active →
    (∀ b o d, PendEntry.bin b o d ∈ (getStack s i).pend → setDownPends (getStack s i) b) →
    (getStack s i).waits = [] → s.placeWait = [] →
    suspectCause i c tag robot bin s = notify (suspectNotice s.tick tag robot i bin c)
      { s with stackRecs := s.stackRecs.modify i fun k => { k with state := .suspect } }

/-! ## Reports -/

/-- ARRIVED for an open APPROACH of its number completes, and the robot's last known cell becomes the report's. A giver
whose join at its bound stack is accepted stands at the tail of the wait list in G_WAIT behind a holder, and is granted at
once on a free stack that is not blocked with nobody waiting. A taker at its bound stack with its bin at rest joins the same
way, into T_WAIT or T_BURIED by the top, or is granted at once; with its bin not yet at rest it is in T_READY; with another
stack bound it is sent a fresh APPROACH there; with none bound it is in T_IDLE. -/
def Obligations.ArrivedWritesCell : Prop :=
  (∀ (s : State) (robot seq x y : Byte) (bus : Bus) (c : Robot) (p : Machine.Step), bus.reset = none →
    getRobot s robot.toNat = some c → c.state ≠ .faulted → c.step = some p → p.seq = seq → p.kind = .approach →
    ∃ t : State, exec (.arrived robot seq x y bus) s = .next t ∧
      (∃ c', getRobot t robot.toNat = some c' ∧ c'.cell = some (x.toNat, y.toNat)) ∧
      ∀ r c', r ≠ robot.toNat → getRobot t r = some c' → (getRobot s r).map Robot.cell = some c'.cell) ∧
  (∀ (s : State) (robot seq x y : Byte) (bus : Bus) (c : Robot) (p : Machine.Step) (tag : Tag) (r : Relay) (i : Nat)
    (e : Access), bus.reset = none →
    getRobot s robot.toNat = some c → c.state ≠ .faulted → c.step = some p → p.seq = seq → p.kind = .approach →
    c.lentTo = .relay tag → getRelay s tag = some r → r.give.robot = some robot.toNat → r.give.state = .approach →
    r.give.stepStack = some i → r.binding = some i → r.endPending = none → s.deferred = [] →
    e = { robot := robot.toNat, purpose := .give, tag := tag, bin := r.bin } → joinAccepted s i e = true →
    ∃ t r' : _, exec (.arrived robot seq x y bus) s = .next t ∧ getRelay t tag = some r' ∧
      ((getStack s i).holder ≠ none → (getStack t i).waits = (getStack s i).waits ++ [e] ∧ r'.give.state = .wait ∧
        r'.give.timer = startTimer s.tuning r.timingSet (some .giveWait)) ∧
      ((getStack s i).holder = none → (getStack s i).blocked = false → (getStack s i).waits = [] →
        c.accessHeld = none →
        (getStack t i).holder = some e ∧ (getStack t i).waits = [] ∧ r'.give.state = .setting ∧
        r'.give.stepStack = some i ∧ r'.give.timer = startTimer s.tuning r.timingSet (some .giveAct))) ∧
  ∀ (s : State) (robot seq x y : Byte) (bus : Bus) (c : Robot) (p : Machine.Step) (tag : Tag) (r : Relay) (i : Nat)
    (e : Access), bus.reset = none →
    getRobot s robot.toNat = some c → c.state ≠ .faulted → c.step = some p → p.seq = seq → p.kind = .approach →
    c.lentTo = .relay tag → getRelay s tag = some r → r.give.robot ≠ some robot.toNat →
    r.take.robot = some robot.toNat → r.take.state = .approach → r.take.stepStack = some i → r.endPending = none →
    s.deferred = [] → e = { robot := robot.toNat, purpose := .take, tag := tag, bin := r.bin } →
    ∃ t r' : _, exec (.arrived robot seq x y bus) s = .next t ∧ getRelay t tag = some r' ∧
      (r.binding = some i → joinAccepted s i e = true →
        (getStack s i).holder ≠ none ∨ (getStack s i).state = .suspect →
        (getStack t i).waits = (getStack s i).waits ++ [e] ∧
        r'.take.state = (if (getStack s i).onTop r.bin then .wait else .buried) ∧
        r'.take.timer = startTimer s.tuning r.timingSet
          (if (getStack s i).onTop r.bin then some .rest else some .bury)) ∧
      (r.binding = some i → joinAccepted s i e = true → (getStack s i).holder = none →
        (getStack s i).state = .active → (getStack s i).onTop r.bin = true → (getStack s i).waits = [] →
        c.accessHeld = none →
        (getStack t i).holder = some e ∧ (getStack t i).waits = [] ∧ r'.take.state = .lifting ∧
        r'.take.stepStack = some i ∧ r'.take.timer = startTimer s.tuning r.timingSet (some .takeAct)) ∧
      (r.binding = some i → (getStack s i).rests r.bin = false → r'.take.state = .ready ∧
        r'.take.timer = startTimer s.tuning r.timingSet (some .rest) ∧ t.stackRecs = s.stackRecs) ∧
      (∀ j, r.binding = some j → j ≠ i → r'.take.state = .approach ∧ r'.take.stepStack = some j ∧
        r'.take.timer = startTimer s.tuning r.timingSet (some .takeApproach) ∧ t.stackRecs = s.stackRecs ∧
        ∃ c' p', getRobot t robot.toNat = some c' ∧ c'.step = some p' ∧ p'.kind = .approach ∧
          p'.x = (getStack s j).x ∧ p'.y = (getStack s j).y) ∧
      (r.binding = none → r'.take.state = .idle ∧ r'.take.timer = none ∧ t.stackRecs = s.stackRecs)

/-- SET_DONE from the holder of a stack on which the bin's reservation stands completes: the relay's bin, or the moved bin of a shuffle, rests on top of the
column, whatever level was sensed, and the bins of every other stack stand. -/
def Obligations.SetDoneRestsBin : Prop :=
  (∀ (s : State) (robot seq level : Byte) (bus : Bus) (c : Robot) (p : Machine.Step) (tag : Tag) (r : Relay) (i : Nat),
      bus.reset = none →
    getRobot s robot.toNat = some c → c.state ≠ .faulted → c.step = some p → p.seq = seq → p.kind = .set →
    c.lentTo = .relay tag → getRelay s tag = some r → r.give.robot = some robot.toNat → r.give.state = .setting →
    r.give.stepStack = some i → holds (getStack s i) robot.toNat true = true → (getStack s i).reserved r.bin = true →
    ∃ t : State, exec (.setDone robot seq level bus) s = .next t ∧ binsOf t i = binsOf s i ++ [r.bin] ∧
      ∀ j, j ≠ i → binsOf t j = binsOf s j) ∧
  ∀ (s : State) (robot seq level : Byte) (bus : Bus) (c : Robot) (p : Machine.Step) (tag : Tag) (r : Relay) (i : Nat)
    (sh : Shuffle), bus.reset = none →
    getRobot s robot.toNat = some c → c.state ≠ .faulted → c.step = some p → p.seq = seq → p.kind = .set →
    c.lentTo = .relay tag → getRelay s tag = some r → r.give.robot ≠ some robot.toNat →
    r.take.robot = some robot.toNat → r.take.state = .shufSet → r.take.stepStack = some i → r.shuffle = some sh →
    holds (getStack s i) robot.toNat true = true → (getStack s i).reserved sh.movedBin = true →
    ∃ t : State, exec (.setDone robot seq level bus) s = .next t ∧ binsOf t i = binsOf s i ++ [sh.movedBin] ∧
      ∀ j, j ≠ i → binsOf t j = binsOf s j

/-- LIFT_DONE from the holder of a stack completes, in a hop lift and in a shuffle lift: the top bin has left the column,
whatever level was sensed and whatever it weighs, and the bins of every other stack stand. -/
def Obligations.LiftDoneTakesTopBin : Prop :=
  ∀ (s : State) (robot seq level : Byte) (load : BitVec 16) (bus : Bus) (c : Robot) (p : Machine.Step) (tag : Tag)
    (r : Relay) (i : Nat), bus.reset = none →
    getRobot s robot.toNat = some c → c.state ≠ .faulted → c.step = some p → p.seq = seq → p.kind = .lift →
    c.lentTo = .relay tag → getRelay s tag = some r → r.give.robot ≠ some robot.toNat →
    r.take.robot = some robot.toNat → r.take.state = .lifting ∨ r.take.state = .shufLift →
    r.take.stepStack = some i → holds (getStack s i) robot.toNat false = true → (getStack s i).resting ≠ [] →
    ∃ t : State, exec (.liftDone robot seq level load bus) s = .next t ∧ binsOf t i = (binsOf s i).dropLast ∧
      ∀ j, j ≠ i → binsOf t j = binsOf s j

/-- REFUSED that is the second give refusal of a hop, of an APPROACH whose reservation stands or of a SET, completes and
the relay ends GIVE_FAILED; one that is the second lift refusal ends it TAKE_FAILED. The relay is gone, or its end is
pending with that outcome. -/
def Obligations.SecondRefusalEndsRelay : Prop :=
  (∀ (s : State) (robot seq : Byte) (bus : Bus) (c : Robot) (p : Machine.Step) (tag : Tag) (r : Relay) (i : Nat),
      bus.reset = none →
    getRobot s robot.toNat = some c → c.state ≠ .faulted → c.step = some p → p.seq = seq →
    c.lentTo = .relay tag → getRelay s tag = some r → r.give.robot = some robot.toNat → r.give.stepStack = some i →
    r.give.state = .approach ∧ r.binding = some i ∨ r.give.state = .setting → r.giveRefusals ≠ 0 →
    r.endPending = none →
    ∃ t : State, exec (.refused robot seq bus) s = .next t ∧ Ending tag .giveFailed t) ∧
  ∀ (s : State) (robot seq : Byte) (bus : Bus) (c : Robot) (p : Machine.Step) (tag : Tag) (r : Relay) (i : Nat),
      bus.reset = none →
    getRobot s robot.toNat = some c → c.state ≠ .faulted → c.step = some p → p.seq = seq →
    c.lentTo = .relay tag → getRelay s tag = some r → r.give.robot ≠ some robot.toNat →
    r.take.robot = some robot.toNat → r.take.stepStack = some i → r.take.state = .lifting → r.liftRefusals ≠ 0 →
    r.endPending = none →
    ∃ t : State, exec (.refused robot seq bus) s = .next t ∧ Ending tag .takeFailed t

/-- REFUSED of a taker's APPROACH completes: the taker is FREE and lent to nothing, and with no robot in the district's
standby queue the side is T_UNASSIGNED with no robot, its REST timer at 0, and the hop's named taker is ANY. -/
def Obligations.RefusedApproachReleasesTaker : Prop :=
  ∀ (s : State) (robot seq : Byte) (bus : Bus) (c : Robot) (p : Machine.Step) (tag : Tag) (r : Relay) (i : Nat),
      bus.reset = none →
    getRobot s robot.toNat = some c → c.state ≠ .faulted → c.step = some p → p.seq = seq →
    c.lentTo = .relay tag → getRelay s tag = some r → r.give.robot ≠ some robot.toNat →
    r.take.robot = some robot.toNat → r.take.stepStack = some i → r.take.state = .approach → r.endPending = none →
    getQueue s r.takeDistrict = [] → s.deferred = [] →
    ∃ t : State, exec (.refused robot seq bus) s = .next t ∧
      (∃ c', getRobot t robot.toNat = some c' ∧ c'.state = .free ∧ c'.lentTo = .none ∧ c'.step = none) ∧
      ∃ r', getRelay t tag = some r' ∧ r'.take.state = .unassigned ∧ r'.take.robot = none ∧
        r'.take.timer = startTimer s.tuning r.timingSet (some .rest) ∧
        r'.takers = r.takers.set (r.hop - 1) none

/-- A REPORT that does not match, for an undeclared or FAULTED robot, no open step, another number or a kind that does not
fit, changes nothing while the link is UP but for what the host itself writes (log 13: the receiver is then hunting). -/
def Obligations.UnmatchedReportDiscarded : Prop :=
  ∀ (s : State) (robot seq : Byte) (rep : Report) (bus : Bus), bus.reset = none → s.linkUp = true →
    (∀ c, getRobot s robot.toNat = some c → c.state = .faulted ∨ c.step = none ∨
      ∃ p, c.step = some p ∧ (p.seq ≠ seq ∨
        (p.kind = .approach ∧ (∀ x y, rep ≠ .arrived x y) ∧ rep ≠ .refused) ∨
        (p.kind = .set ∧ (∀ l, rep ≠ .setDone l) ∧ rep ≠ .refused) ∨
        (p.kind = .lift ∧ (∀ l w, rep ≠ .liftDone l w) ∧ rep ≠ .refused))) →
    (match rep with
      | .arrived x y => exec (.arrived robot seq x y bus) s
      | .refused => exec (.refused robot seq bus) s
      | .setDone level => exec (.setDone robot seq level bus) s
      | .liftDone level load => exec (.liftDone robot seq level load bus) s) =
      .next { hostOnly bus s with rx := [] }

/-- While the link is UP, POSITION writes the cell of a declared robot that is not FAULTED, POSITION for another robot is
discarded, and BEACON sets the silence count to 0; a silence limit that stands as due is void with it (log 7, the model's
choice). Nothing else changes but that the receiver is then hunting (log 13) and what the host itself writes. -/
def Obligations.PositionAndBeaconAct : Prop :=
  (∀ (s : State) (robot x y : Byte) (bus : Bus), bus.reset = none → s.linkUp = true →
    exec (.position robot x y bus) s = .next { hostOnly bus s with
      rx := []
      robots := s.robots.map fun c =>
        if c.id = robot.toNat ∧ c.state ≠ .faulted then { c with cell := some (x.toNat, y.toNat) } else c }) ∧
  ∀ (s : State) (bus : Bus), bus.reset = none → s.linkUp = true →
    exec (.beacon bus) s = .next { hostOnly bus s with rx := [], silence := 0, silenceDue := false }

/-! ## Faults -/

/-- FAULT from a robot that is lent to no relay and holds no access completes: the robot is FAULTED with no open step, its
unsent step frames (log 48: by the robot, the model's choice) and its wait entries are gone, it has left the standby queue, and a ROBOT_FAULT notice with cause REPORT
is appended; nothing else changes but that the receiver is then hunting (log 13) and what the host itself writes. FAULT from
a giver whose bin is not set down, and that holds no access, ends its relay
ROBOT_LOST: the relay is gone, or its end is pending with that outcome. Robots that hold access, takers and shufflers are
outside this statement. -/
def Obligations.FaultReportActs : Prop :=
  (∀ (s : State) (robot : Byte) (bus : Bus) (c : Robot), bus.reset = none → s.linkUp = true → s.deferred = [] →
    getRobot s robot.toNat = some c → c.state ≠ .faulted → (∀ t, c.lentTo ≠ .relay t) → c.accessHeld = none →
    exec (.fault robot bus) s = .next (endBus (notify
      (robotFaultNotice s.tick 0#32 robot.toNat none (c.heldBin.getD 0#32) none) { beginBus bus s with
        rx := []
        robots := s.robots.map fun d =>
          if d.id = robot.toNat then
            { d with state := .faulted, step := none, lentTo := if c.lentTo = .standby then .none else d.lentTo }
          else d
        outq := (if s.tx.isSome then s.outq.take 1 else []) ++
          (unsentFrames s).filter fun f => !(f.isStep && f.robot == robot.toNat)
        stackRecs := s.stackRecs.map fun k => { k with waits := k.waits.filter fun e => !(e.robot == robot.toNat) }
        standby := if c.lentTo = .standby then s.standby.modify (c.district - 1) (fun q => q.erase robot.toNat)
          else s.standby }))) ∧
  ∀ (s : State) (robot : Byte) (bus : Bus) (c : Robot) (tag : Tag) (r : Relay), bus.reset = none → s.linkUp = true →
    getRobot s robot.toNat = some c → c.state ≠ .faulted → c.lentTo = .relay tag → c.accessHeld = none →
    getRelay s tag = some r → r.give.robot = some robot.toNat → r.give.state ≠ .done → r.endPending = none →
    ∃ t : State, exec (.fault robot bus) s = .next t ∧ Ending tag .robotLost t

/-! ## Ticks, warns and limits -/

/-- TICK completes in every state. In IDLE nothing changes. Otherwise the tick counter advances by one and wraps; each
relay's step timers count unless hold is on, and its clock expires at its expiry tick; each line's candidate counts; the
silence count rises while the link is UP, and stays at 255 (log 34); the poll count rises in RUNNING; and nothing else
changes (log 5, log 6, log 7: an expiry that arises stands until its own command takes it). -/
def Obligations.TickAdvancesClocks : Prop :=
  (∀ s : State, s.device = .idle → exec .tick s = .next s) ∧
  ∀ s : State, s.device ≠ .idle → exec .tick s = .next { s with
    tick := s.tick + 1#32
    relays := s.relays.map fun r => { r with
      give := { r.give with timer := if s.hold then r.give.timer else r.give.timer.map Timer.advance }
      take := { r.take with timer := if s.hold then r.take.timer else r.take.timer.map Timer.advance }
      clock := r.clock.map fun c =>
        if c.opened.map (fun o => o + BitVec.ofNat 32 (r.budget - c.used)) = some (s.tick + 1#32)
        then { c with due := true } else c }
    lines := s.lines.map fun l => { l with candidate := l.candidate.map fun c =>
      if c.due then c else { c with count := c.count + 1, due := decide (checkTime l.check ≤ c.count + 1) } }
    silence := if s.linkUp then min 255 (s.silence + 1) else s.silence
    silenceDue := s.silenceDue || (s.linkUp && decide (s.tuning.silenceLimit ≤ min 255 (s.silence + 1)))
    pollCount := if s.device = .running ∧ s.kept.isSome then s.pollCount + 1 else s.pollCount
    pollDue := s.pollDue || (decide (s.device = .running) &&
      s.kept.any fun k => decide (k.pollInterval ≤ s.pollCount + 1)) }

/-- At each advance of the tick counter, unless service hold is on, a running timer's count rises by one, and stays at
65535. The warn arises exactly when the count reaches a warn value
above 0 that lies below the limit, or has no limit above it, at most once per timing; the limit arises exactly when the
count reaches a limit above 0, and the timer stops with it. -/
def Obligations.TimerCountsToWarnAndLimit : Prop :=
  (∀ m : Timer, m.running = true → m.count < 65535 →
    m.advance.count = m.count + 1 ∧ m.advance.phase = m.phase ∧ m.advance.warn = m.warn ∧ m.advance.limit = m.limit ∧
    (m.advance.warnDue = true ↔ m.warnDue = true ∨ (m.warned = false ∧ 0 < m.warn ∧ m.count + 1 = m.warn ∧
      (m.limit = 0 ∨ m.warn < m.limit))) ∧
    (m.advance.warned = true ↔ m.warned = true ∨ (0 < m.warn ∧ m.count + 1 = m.warn ∧
      (m.limit = 0 ∨ m.warn < m.limit))) ∧
    (m.advance.limitDue = true ↔ m.limitDue = true ∨ (0 < m.limit ∧ m.count + 1 = m.limit)) ∧
    (m.advance.running = false ↔ 0 < m.limit ∧ m.count + 1 = m.limit)) ∧
  (∀ m : Timer, m.running = false ∨ m.count = 65535 → m.advance = m) ∧
  ∀ s : State, s.device ≠ .idle → ∃ t : State, exec .tick s = .next t ∧
    t.relays.map (fun r => (r.give.timer, r.take.timer)) = s.relays.map fun r =>
      if s.hold then (r.give.timer, r.take.timer) else (r.give.timer.map Timer.advance, r.take.timer.map Timer.advance)

/-- A warn that has arisen in a side's current timing, of any phase but BURY by STEP_WARN, of BURY without ALLOW_SHUFFLE by
BURY_WARN, completes: LATE is set and a LATE notice names the phase, the side's robot and stack; the side's state and timer
stand but for the warn, which is taken. -/
def Obligations.WarnsSetLate : Prop :=
  (∀ (s : State) (tag : Tag) (side : Side) (bus : Bus) (r : Relay) (m : Timer), bus.reset = none →
      getRelay s tag = some r →
    r.timer side = some m → m.warnDue = true → m.phase ≠ .bury →
    exec (.stepWarn tag side bus) s = .next (endBus (notify
      (lateNotice s.tick tag ((r.sideRobot side).getD 0) (lateStack s r side) r.bin m.phase)
      (setFlag tag (fun f => { f with late := true })
        (modTimer tag side (fun m => { m with warnDue := false }) (beginBus bus s)))))) ∧
  ∀ (s : State) (tag : Tag) (bus : Bus) (r : Relay) (m : Timer), bus.reset = none →
      getRelay s tag = some r → r.take.timer = some m →
    m.warnDue = true → m.phase = .bury → r.allowShuffle = false →
    exec (.buryWarn tag bus) s = .next (endBus (notify
      (lateNotice s.tick tag (r.take.robot.getD 0) (lateStack s r .take) r.bin .bury)
      (setFlag tag (fun f => { f with late := true })
        (modTimer tag .take (fun m => { m with warnDue := false }) (beginBus bus s)))))

/-- BURY_WARN for a buried taker whose relay allows shuffles, on an ACTIVE stack without a holder and with room, starts a
shuffle of the top bin when a target placement answers a stack: the shuffle part names the bin, its relay, its bound
district, the source and the target; the target holds its reservation and the source a blank hold; LATE is not set. -/
def Obligations.BuryWarnStartsShuffle : Prop :=
  ∀ (s : State) (tag : Tag) (bus : Bus) (r : Relay) (m : Timer) (i robot j cost : Nat) (x : RestEntry)
    (u : State), bus.reset = none → u = modTimer tag .take (fun m => { m with warnDue := false }) (beginBus bus s) →
    getRelay s tag = some r → r.take.timer = some m → m.warnDue = true → m.phase = .bury →
    r.take.state = .buried → r.take.robot = some robot → r.binding = some i → r.allowShuffle = true →
    r.endPending = none → (getStack s i).state = .active → (getStack s i).holder = none →
    (getStack s i).hasRoom = true → (getStack s i).top = some x →
    targetPlacement u i none x.bin x.owner robot = some (j, cost) → s.deferred = [] →
    ∃ t r' : _, exec (.buryWarn tag bus) s = .next t ∧ getRelay t tag = some r' ∧ r'.flags = r.flags ∧
      r'.shuffle = some { movedBin := x.bin, movedRelay := x.owner
                          boundDistrict := (getStack s i).districtOf x.bound
                          source := i, target := some j, excluded := none, setbacks := 0, returning := false } ∧
      PendEntry.bin x.bin x.owner ((getStack s i).districtOf x.bound) ∈ (getStack t j).pend ∧
      PendEntry.hold x.owner robot ∈ (getStack t i).pend

/-- PLACE_LIMIT, GIVE_WAIT_LIMIT of the give side, REST_LIMIT, BURY_LIMIT and QUERY_LIMIT complete. With no end pending and
no step of the relay open, the relay is torn down at once with NO_ROOM, ACCESS_TIMEOUT, REST_TIMEOUT, BURIED or
LOAD_REJECTED; with a step open the end is pending with that outcome; with an end already pending the limit has no
effect. GIVE_WAIT_LIMIT of the take side completes with or without an end pending: the shuffler's wait entry is removed; at
a target the first setback cancels the reservation, excludes that target and seeks another; a second setback, or the limit
at the source, fails the shuffle: its relay ends TAKE_FAILED, and the moved bin's relay GIVE_FAILED at a target and
ACCESS_TIMEOUT at the source, each at once or pending. -/
def Obligations.WaitingLimitEndsRelay : Prop :=
  (∀ (s : State) (tag : Tag) (bus : Bus) (c : Instr) (side : Side) (ph : Phase) (code : Code) (r : Relay) (m : Timer)
    (u : State), bus.reset = none →
    (c, side, ph, code) ∈ ([(.placeLimit tag bus, .give, .place, .noRoom),
      (.giveWaitLimit tag .give bus, .give, .giveWait, .accessTimeout), (.restLimit tag bus, .take, .rest, .restTimeout),
      (.buryLimit tag bus, .take, .bury, .buried), (.queryLimit tag bus, .take, .query, .loadRejected)] :
        List (Instr × Side × Phase × Code)) →
    getRelay s tag = some r → r.timer side = some m → m.limitDue = true → m.phase = ph →
    u = modTimer tag side (fun m => { m with limitDue := false }) (beginBus bus s) →
    (r.endPending = none → stepOpen s r = false →
      exec c s = .next (endBus (actDeferred (teardown tag code u)))) ∧
    (r.endPending = none → stepOpen s r = true → s.deferred = [] →
      ∃ t r' : _, exec c s = .next t ∧ getRelay t tag = some r' ∧ r'.endPending = some code) ∧
    (r.endPending ≠ none → exec c s = .next (endBus (actDeferred u)))) ∧
  ∀ (s : State) (tag : Tag) (bus : Bus) (r : Relay) (m : Timer) (sh : Shuffle) (robot : Nat) (u : State),
      bus.reset = none →
    getRelay s tag = some r → r.take.timer = some m → m.limitDue = true → m.phase = .giveWait →
    r.shuffle = some sh → r.take.robot = some robot →
    u = dropWaits (fun e => e.robot == robot) (modTimer tag .take (fun m => { m with limitDue := false }) (beginBus bus s)) →
    (∀ j, sh.returning = false → sh.target = some j → sh.setbacks = 0 →
      exec (.giveWaitLimit tag .take bus) s = .next (endBus (actDeferred (joinSomeTarget tag (placeTarget tag
        (modShuffle tag (fun h => { h with target := none, excluded := some j, setbacks := 1 })
          (cancelReservation j sh.movedBin u))))))) ∧
    (sh.returning = true ∨ sh.target = none ∨ sh.setbacks ≠ 0 → sh.movedRelay ≠ some tag →
      ∃ t : State, exec (.giveWaitLimit tag .take bus) s = .next t ∧ (r.endPending = none → Ending tag .takeFailed t) ∧
        ∀ q rq, sh.movedRelay = some q → getRelay s q = some rq → rq.endPending = none →
          Ending q (if sh.returning = false ∧ sh.target ≠ none then .giveFailed else .accessTimeout) t)

/-- GIVE_APPROACH_LIMIT, GIVE_ACT_LIMIT of the give side and TAKE_ACT_LIMIT of a hop lift complete: the relay ends
ROBOT_LOST, GIVE_TIMEOUT or TAKE_TIMEOUT, at once or pending; and an ACTIVE stack at which the robot held access is
SUSPECT. In a shuffle, TAKE_ACT_LIMIT of T_SHUF_LIFT and GIVE_ACT_LIMIT of T_SHUF_SET complete: the shuffler faults and is
lost, an ACTIVE stack at which it held access is SUSPECT, the bins at rest stand, and the relay of the bin that the shuffler
holds in T_SHUF_SET ends ROBOT_LOST, at once or pending (log 51: the order of what is done for a lost shuffler is the
model's choice). A lost shuffler leaves its side T_UNASSIGNED with no robot and no
shuffle part, a fresh REST timer and the hop's named taker ANY, and its relay goes on, when no end of it is pending and its
district's standby queue is empty. -/
def Obligations.ActLimitEndsRelay : Prop :=
  (∀ (s : State) (tag : Tag) (bus : Bus) (cmd : Instr) (side : Side) (ph : Phase) (code : Code) (r : Relay) (m : Timer)
    (robot : Nat) (c : Robot), bus.reset = none →
    (cmd, side, ph, code) ∈ ([(.giveApproachLimit tag bus, .give, .giveApproach, .robotLost),
      (.giveActLimit tag .give bus, .give, .giveAct, .giveTimeout),
      (.takeActLimit tag bus, .take, .takeAct, .takeTimeout)] : List (Instr × Side × Phase × Code)) →
    getRelay s tag = some r → r.timer side = some m → m.limitDue = true → m.phase = ph →
    r.sideRobot side = some robot → getRobot s robot = some c → r.endPending = none → r.shuffle = none →
    ∃ t : State, exec cmd s = .next t ∧ Ending tag code t ∧
      ∀ i h, c.accessHeld = some i → (getStack s i).holder = some h → (getStack s i).state = .active →
        c.step ≠ none → (getStack t i).state = .suspect) ∧
  (∀ (s : State) (tag : Tag) (bus : Bus) (cmd : Instr) (ph : Phase) (st : TakeState) (r : Relay) (m : Timer)
    (sh : Shuffle) (robot : Nat) (c : Robot) (u : State), bus.reset = none →
    (cmd, ph, st) ∈ ([(.takeActLimit tag bus, .takeAct, .shufLift), (.giveActLimit tag .take bus, .giveAct, .shufSet)] :
      List (Instr × Phase × TakeState)) →
    getRelay s tag = some r → r.take.timer = some m → m.limitDue = true → m.phase = ph → r.take.state = st →
    r.shuffle = some sh → r.take.robot = some robot → getRobot s robot = some c →
    u = modTimer tag .take (fun m => { m with limitDue := false }) (beginBus bus s) →
    ∃ t : State, exec cmd s = .next t ∧
      t = endBus (actDeferred (shufflerLost tag (faultRobot robot (some ph)
        (if st = .shufLift then u else onMoved sh.movedRelay (fun q => decideEnd q .robotLost) u)))) ∧
      (∀ i, binsOf t i = binsOf s i) ∧
      (∀ i h, c.accessHeld = some i → (getStack s i).holder = some h → (getStack s i).state = .active →
        (getStack t i).state = .suspect) ∧
      ∀ q rq, st = .shufSet → sh.movedRelay = some q → getRelay s q = some rq → rq.endPending = none →
        Ending q .robotLost t) ∧
  ∀ (s : State) (tag : Tag) (r : Relay) (sh : Shuffle) (robot : Nat),
    getRelay s tag = some r → r.shuffle = some sh → r.take.robot = some robot → r.endPending = none →
    sh.movedRelay ≠ some tag → getQueue s r.takeDistrict = [] →
    ∃ r', getRelay (shufflerLost tag s) tag = some r' ∧ r'.take.state = .unassigned ∧ r'.take.robot = none ∧
      r'.take.timer = startTimer s.tuning r.timingSet (some .rest) ∧ r'.shuffle = none ∧
      r'.takers = r.takers.set (r.hop - 1) none ∧ r'.endPending = none

/-- TAKE_APPROACH_LIMIT completes: the taker is FAULTED, with no open step, lent to nothing and holding no bin (log 50: it is
unbound in the limit's own event, which the manual does not say); with no
robot in the district's standby queue the side is T_UNASSIGNED with no robot and a fresh REST timer, the hop's named taker
is ANY, and the relay goes on. -/
def Obligations.TakeApproachLimitDropsTaker : Prop :=
  ∀ (s : State) (tag : Tag) (bus : Bus) (r : Relay) (m : Timer) (robot : Nat) (c : Robot), bus.reset = none →
    getRelay s tag = some r → r.take.timer = some m → m.limitDue = true → m.phase = .takeApproach →
    r.take.robot = some robot → getRobot s robot = some c → c.lentTo = .relay tag → c.accessHeld = none →
    r.endPending = none → getQueue s r.takeDistrict = [] → s.deferred = [] →
    ∃ t c' r' : _, exec (.takeApproachLimit tag bus) s = .next t ∧
      getRobot t robot = some c' ∧ c'.state = .faulted ∧ c'.step = none ∧ c'.lentTo = .none ∧ c'.heldBin = none ∧
      getRelay t tag = some r' ∧ r'.take.state = .unassigned ∧ r'.take.robot = none ∧
      r'.take.timer = startTimer s.tuning r.timingSet (some .rest) ∧ r'.takers = r.takers.set (r.hop - 1) none ∧
      r'.endPending = none

/-- EXPOSURE_EXPIRY for a clock whose expiry has arisen completes: used is the budget, the clock has expired, EXPOSED is
set and an EXPOSED notice is appended; with ABORT_ON_EXPOSURE and no end pending the relay ends EXPOSED, at once or
pending, and without it the relay goes on. -/
def Obligations.ExposureExpiryActs : Prop :=
  (∀ (s : State) (tag : Tag) (bus : Bus) (r : Relay) (k : Clock), bus.reset = none →
      getRelay s tag = some r → r.clock = some k →
    k.due = true → k.expired = false → r.abortOnExposure = false → s.deferred = [] →
    exec (.exposureExpiry tag bus) s = .next (endBus (notify
      (exposedNotice s.tick tag ((holdingRobot s r.bin).getD 0) (restingStack s r.bin) r.bin r.budget)
      (modRelay tag (fun q => { q with
        clock := some { used := q.budget, opened := none, expired := true, due := false }
        flags := { q.flags with exposed := true } }) (beginBus bus s))))) ∧
  ∀ (s : State) (tag : Tag) (bus : Bus) (r : Relay) (k : Clock), bus.reset = none →
      getRelay s tag = some r → r.clock = some k →
    k.due = true → k.expired = false → r.abortOnExposure = true → r.endPending = none →
    ∃ t : State, exec (.exposureExpiry tag bus) s = .next t ∧ Ending tag .exposed t

/-- SILENCE_LIMIT for a limit that has been reached with the link UP completes: the link is DOWN, a frame being sent is cut
off and stays at the head of the queue, LINK is set and LINK_DOWN with the number of frames is appended. Any valid frame
brings a DOWN link UP with a silence count of 0 and sets LINK. -/
def Obligations.LinkGoesDownAndUp : Prop :=
  (∀ (s : State) (bus : Bus), bus.reset = none → s.silenceDue = true → s.linkUp = true →
    exec (.silenceLimit bus) s = .next (endBus (notify (linkDownNotice s.tick s.outq.length) { beginBus bus s with
      linkUp := false, silenceDue := false, tx := none, events := s.events ||| 0x10#32 }))) ∧
  ∀ (s : State) (c : Instr), c.bus.reset = none → s.linkUp = false →
    (match c with
      | .arrived _ _ _ _ _ | .refused _ _ _ | .setDone _ _ _ _ | .liftDone _ _ _ _ _ | .position _ _ _ _ | .fault _ _
      | .beacon _ => True
      | _ => False) →
    ∃ t : State, exec c s = .next t ∧ t.linkUp = true ∧ t.silence = 0 ∧ t.events &&& 0x10#32 = 0x10#32

/-! ## Lines and hold -/

/-- RAW_LINE_CHANGE completes for each of the 32 lines: the raw level is the new one, and the other lines stand. On an OFF
line nothing else of the line changes; back at the debounced level the candidate is dropped; away from it a candidate at
count 0 begins, or with check time 0 the debounced level changes at once: the new line image, whose bit n is line n, is
written into the header, then LINE_CHANGE is appended if the edge setting selects the change, then the line's function acts.
A line above 31 is a fault of the model (log 35). -/
def Obligations.RawLineChangeFilters : Prop :=
  (∀ (s : State) (n : Nat) (level : Bool) (bus : Bus), bus.reset = none →
      n < 32 → s.lines.length = 32 → (getLine s n).raw ≠ level →
    ∃ t : State, exec (.rawLineChange n level bus) s = .next t ∧
      (∀ j, j ≠ n → getLine t j = getLine s j) ∧
      ((getLine s n).fn = .off → getLine t n = { getLine s n with raw := level }) ∧
      ((getLine s n).fn ≠ .off → (getLine s n).candidate.any Candidate.due = false →
        getLine t n =
          if level = (getLine s n).level then { getLine s n with raw := level, candidate := none }
          else if (getLine s n).check = 0 then { getLine s n with raw := level, level := level, candidate := none }
          else { getLine s n with raw := level, candidate := some { level := level, count := 0, due := false } })) ∧
  (∀ (s : State) (n : Nat) (level : Bool) (bus : Bus) (l : Line) (u v : State), bus.reset = none →
      n < 32 → l = getLine s n →
    l.raw ≠ level → l.fn ≠ .off → l.candidate.any Candidate.due = false → level ≠ l.level → l.check = 0 →
    u = { beginBus bus s with
      lines := s.lines.modify n fun l => { l with raw := level, level := level, candidate := none } } →
    v = (if (l.edge = .rise ∧ level = true) ∨ (l.edge = .fall ∧ level = false) ∨ l.edge = .both
      then notify (lineChangeNotice s.tick l.fn.stack n level) (writeImage u) else writeImage u) →
    exec (.rawLineChange n level bus) s = .next (endBus (actDeferred (lineActs l.fn level v)))) ∧
  (∀ s : State, (exchangeOpen s = true → s.bus.errorAt = none → s.bus.writes = [] →
      writeImage s = { s with
        mem := Memory.put s.mem (s.exchangeBase.toNat + 32) (le32 (lineImage s)), busCount := s.busCount + 1 }) ∧
    (exchangeOpen s = false → writeImage s = s) ∧
    (s.lines.length = 32 → ∀ n < 32, (lineImage s).getLsbD n = (getLine s n).level)) ∧
  (∀ (s : State) (n : Nat) (level : Bool) (bus : Bus), bus.reset = none →
      n < 32 → s.deferred = [] → (getLine s n).raw = level →
    exec (.rawLineChange n level bus) s = .next (hostOnly bus s)) ∧
  ∀ (s : State) (n : Nat) (level : Bool) (bus : Bus), 32 ≤ n →
    exec (.rawLineChange n level bus) s = .fault .noSuchLine ∧
    exec (.debounceExpiry n bus) s = .fault .noSuchLine

/-- DEBOUNCE_EXPIRY for a line whose candidate has lasted its check time completes: the candidate's level is the debounced
level, and the other lines stand; a raw level that has moved on since starts a candidate of its own (log 8). The new line
image is written into the header, then LINE_CHANGE is appended if the edge setting selects the change, then the line's
function acts. The blocked flag of an OVERFILL line's stack is the level, and a GATE line that completes the gate test turns hold ON. -/
def Obligations.DebounceExpiryChangesLevel : Prop :=
  (∀ (s : State) (n : Nat) (bus : Bus) (c : Candidate), bus.reset = none → n < 32 → s.lines.length = 32 →
    (getLine s n).candidate = some c → c.due = true →
    ∃ t : State, exec (.debounceExpiry n bus) s = .next t ∧
      (∀ j, j ≠ n → getLine t j = getLine s j) ∧
      getLine t n = { getLine s n with
        level := c.level
        candidate := if (getLine s n).raw = c.level then none
          else some { level := (getLine s n).raw, count := 0, due := false } } ∧
      (∀ i, (getLine s n).fn = .overfill i → i < s.stackRecs.length → (getStack t i).blocked = c.level) ∧
      ((getLine s n).fn = .gate → gateTest t = true → t.hold = true)) ∧
  ∀ (s : State) (n : Nat) (bus : Bus) (l : Line) (c : Candidate) (u v : State), bus.reset = none →
      n < 32 → l = getLine s n →
    l.candidate = some c → c.due = true →
    u = { beginBus bus s with lines := s.lines.modify n fun l => { l with level := c.level, candidate := none } } →
    v = (if (l.edge = .rise ∧ c.level = true) ∨ (l.edge = .fall ∧ c.level = false) ∨ l.edge = .both
      then notify (lineChangeNotice s.tick l.fn.stack n c.level) (writeImage u) else writeImage u) →
    exec (.debounceExpiry n bus) s = .next (endBus (actDeferred (modLine n
      (fun k => { k with candidate := if l.raw = c.level then none
                                      else some { level := l.raw, count := 0, due := false } })
      (lineActs l.fn c.level v))))

/-- HOLD outside IDLE turns hold ON once, cuts off a frame being sent, sets the HOLD event and appends HOLD_ON with cause
HOST. RESUME turns it OFF when every GATE line is CLEAR, sets the event and appends HOLD_OFF with the number of frames.
HOLD while ON and RESUME while OFF or with a GATE line ASSERTED change nothing but what the host itself writes. -/
def Obligations.HoldAndResume : Prop :=
  (∀ (s : State) (bus : Bus), bus.reset = none → s.device ≠ .idle → s.hold = false →
    exec (.hold bus) s = .next (endBus (notify (holdOnNotice s.tick .host) { beginBus bus s with
      hold := true, tx := none, events := s.events ||| 0x08#32 }))) ∧
  (∀ (s : State) (bus : Bus), bus.reset = none → s.hold = true → exec (.hold bus) s = .next (hostOnly bus s)) ∧
  (∀ (s : State) (bus : Bus), bus.reset = none → s.device ≠ .idle → s.hold = true →
    (∀ l ∈ s.lines, l.fn = .gate → l.level = false) →
    exec (.resume bus) s = .next (endBus (notify (holdOffNotice s.tick s.outq.length) { beginBus bus s with
      hold := false, events := s.events ||| 0x08#32 }))) ∧
  ∀ (s : State) (bus : Bus), bus.reset = none → s.hold = false ∨ (∃ l ∈ s.lines, l.fn = .gate ∧ l.level = true) →
    exec (.resume bus) s = .next (hostOnly bus s)

/-! ## The fleet link's bytes -/

/-- TRANSMIT_START with the link UP, hold OFF and no frame being sent begins the head frame with all its bytes, and does
nothing otherwise; FRAME_SENT takes the sent frame off the queue, and does nothing when none is being sent. -/
def Obligations.TransmitterSendsHeadFrame : Prop :=
  (∀ (s : State) (f : OutFrame) (rest : List OutFrame), s.outq = f :: rest → s.linkUp = true → s.hold = false →
    s.tx = none → exec .transmitStart s = .next { s with tx := some f.bytes }) ∧
  (∀ s : State, s.outq = [] ∨ s.linkUp = false ∨ s.hold = true ∨ s.tx ≠ none → exec .transmitStart s = .next s) ∧
  (∀ (s : State) (bs : List Byte), s.tx = some bs →
    exec .frameSent s = .next { s with outq := s.outq.drop 1, tx := none }) ∧
  ∀ s : State, s.tx = none → exec .frameSent s = .next s

/-- Every inbound frame that a robot sends, whole with its CRC, is received by a hunting receiver as that frame, and the
receiver then goes on with the bytes behind it. -/
def Obligations.EveryFrameReceivedBack : Prop :=
  ∀ (f : InFrame) (more : List Byte), receive (frameAround f.typed ++ more) = (f :: (receive more).1, (receive more).2)

/-- The receiver passes over a byte that is not a start byte, and resumes behind the start byte of a frame that fails its
checks. BAD_FRAME and FRAME_ABANDON, with bytes in which no valid frame is found, complete and change no more than the
bytes of the frame in progress (log 12, the model's choice: bytes arrive as operands, the receiver holds those of the frame
in progress, and a frame begun inside an abandoned one stays in progress). -/
def Obligations.BadFramesDropped : Prop :=
  (∀ (b : Byte) (more : List Byte), b ≠ 0x7E#8 → receive (b :: more) = receive more) ∧
  (∀ more : List Byte, Front.ofBytes more = .bad → receive (0x7E#8 :: more) = receive more) ∧
  (∀ (s : State) (bytes rest : List Byte) (bus : Bus), bus.reset = none → receive (s.rx ++ bytes) = ([], rest) →
    exec (.badFrame bytes bus) s = .next { hostOnly bus s with rx := rest }) ∧
  ∀ (s : State) (bytes rest rest' : List Byte) (bus : Bus), bus.reset = none → receive (s.rx ++ bytes) = ([], rest) →
    receive rest.tail = ([], rest') →
    exec (.frameAbandon bytes bus) s = .next { hostOnly bus s with rx := rest' }

/-! ## Load, exposure, tuning and standby -/

/-- A raw reading in grams is the floor of max(0, raw − offset) × gain ÷ 256, at most 65488 for a reading that is not
over-range. -/
def Obligations.GramsFromReading : Prop :=
  ∀ offset gain raw : Nat,
    (gramsOf offset gain raw : Int) = Int.floor (((max 0 ((raw : Int) - offset) * gain : Int) : Rat) / 256) ∧
    (raw ≤ 4094 → gain ≤ 4095 → gramsOf offset gain raw ≤ 65488)

/-- A weight matches a reference exactly when their difference is at most TolAbs + floor(ref × TolRel ÷ 1024). -/
def Obligations.WeightMatchesWithinTolerance : Prop :=
  ∀ (tn : Tuning) (w ref : Nat),
    weightMatches tn w ref = true ↔
      |(w : Int) - ref| ≤ tn.tolAbs + Int.floor (((ref * tn.tolRel : Nat) : Rat) / 1024)

/-- A hop lift's load check: over-range sets OVERRANGE; a first weight becomes the reference; a match changes no flag; a
mismatch sets LOADFLAG. The side enters T_DONE, but under STRICT_LOAD with no end pending a mismatch enters T_QUERY with a
QUERY notice that carries the weight. -/
def Obligations.HopLiftLoadCheck : Prop :=
  ∀ (s : State) (tag : Tag) (i load : Nat) (c : Robot) (r : Relay), getRelay s tag = some r →
    (weigh c load = none →
      hopLoad tag i c load s = enterTake tag .done (setFlag tag (fun f => { f with overRange := true }) s)) ∧
    (∀ w, weigh c load = some w → r.reference = none →
      hopLoad tag i c load s = enterTake tag .done (modRelay tag (fun q => { q with reference := some w }) s)) ∧
    (∀ w ref, weigh c load = some w → r.reference = some ref → weightMatches s.tuning w ref = true →
      hopLoad tag i c load s = enterTake tag .done s) ∧
    (∀ w ref, weigh c load = some w → r.reference = some ref → weightMatches s.tuning w ref = false →
      r.strictLoad = false ∨ r.endPending ≠ none →
      hopLoad tag i c load s = enterTake tag .done (setFlag tag (fun f => { f with loadFlag := true }) s)) ∧
    ∀ w ref, weigh c load = some w → r.reference = some ref → weightMatches s.tuning w ref = false →
      r.strictLoad = true → r.endPending = none →
      hopLoad tag i c load s = notify (queryNotice s.tick tag c.id (some i) r.bin w)
        (enterTake tag .query (setFlag tag (fun f => { f with loadFlag := true }) s))

/-- A change of a tracked bin's situation before its expiry charges the open interval to the clock and opens a new one
exactly when the bin is out of its zone; an untracked relay and an expired clock stand. -/
def Obligations.SituationChangeChargesClock : Prop :=
  (∀ (s : State) (tag : Tag) (r : Relay) (k : Clock), getRelay s tag = some r → r.clock = some k → k.expired = false →
    k.used + charged s.tick k.opened < r.budget →
    situationChanged tag false s = modRelay tag (fun q => { q with clock := some {
      used := k.used + charged s.tick k.opened
      opened := if outOfZone s q then some s.tick else none, expired := false, due := false } }) s) ∧
  ∀ (s : State) (tag : Tag) (r : Relay), getRelay s tag = some r →
    (r.clock = none ∨ ∃ k, r.clock = some k ∧ k.expired = true) → situationChanged tag false s = s

/-- In a slot of no active relay, an accepted TUNE replaces the parts it carries and no other, a silence limit of 0 being written as 1; an accepted
STANDBY ADD of a FREE robot in a district where no side waits puts it at the tail of its queue in STANDBY, and REMOVE
takes it out again to FREE. -/
def Obligations.TuneAndStandbyRequests : Prop :=
  (∀ (s : State) (slot : Nat) (tag : Tag) (b : List Byte) (u : Tune), (∀ r ∈ s.relays, r.slot ≠ slot) →
    Tune.ofBody b = some u → ∃ tn : Tuning,
    runSlot slot 4 tag b s = (some .done, { s with tuning := tn }) ∧
    (tn.wd, tn.wb, tn.wf, tn.wz) = u.weights.getD (s.tuning.wd, s.tuning.wb, s.tuning.wf, s.tuning.wz) ∧
    (tn.tolAbs, tn.tolRel) = u.tolerance.getD (s.tuning.tolAbs, s.tuning.tolRel) ∧
    (∀ n ps, u.timing = some (n, ps) → tn.timing = s.tuning.timing.set n ps) ∧
    (u.timing = none → tn.timing = s.tuning.timing) ∧
    (∀ l, u.silence = some l → tn.silenceLimit = max 1 l) ∧
    (u.silence = none → tn.silenceLimit = s.tuning.silenceLimit)) ∧
  (∀ (s : State) (slot : Nat) (tag : Tag) (b : List Byte) (robot : Nat) (c : Robot),
    (∀ r ∈ s.relays, r.slot ≠ slot) → standbyOfBody b = some (robot, true) →
    getRobot s robot = some c → c.state = .free → waitingTake s c.district = none →
    runSlot slot 6 tag b s = (some .done, { s with
      robots := s.robots.map fun d => if d.id = robot then { d with state := .standby, lentTo := .standby } else d
      standby := s.standby.modify (c.district - 1) fun q => q ++ [robot] })) ∧
  ∀ (s : State) (slot : Nat) (tag : Tag) (b : List Byte) (robot : Nat) (c : Robot),
    (∀ r ∈ s.relays, r.slot ≠ slot) → standbyOfBody b = some (robot, false) →
    getRobot s robot = some c → c.state = .standby →
    runSlot slot 6 tag b s = (some .done, { s with
      robots := s.robots.map fun d => if d.id = robot then { d with state := .free, lentTo := .none } else d
      standby := s.standby.modify (c.district - 1) fun q => q.erase robot })

/-- In a slot of no active relay, an accepted DECLARE_STACK writes the stack's fields and leaves it empty and ACTIVE, or
SUSPECT when its line is asserted; a first DECLARE_ROBOT makes a FREE context and changes no other; RETIRE takes a stack out
of use to RETIRED, and removes a robot with its unsent frames. -/
def Obligations.DeclareAndRetireRequests : Prop :=
  ∀ (s : State) (slot : Nat) (tag : Tag) (b : List Byte), (∀ r ∈ s.relays, r.slot ≠ slot) →
    (∀ d, DeclareStack.ofBody b = some d → d.stack < s.stackRecs.length → (getStack s d.stack).state ≠ .suspect →
      (getStack s d.stack).state ≠ .active ∨ (getStack s d.stack).inUse = false → cellTaken s d = false →
      ∃ t k : _, runSlot slot 1 tag b s = (some .done, t) ∧ getStack t d.stack = k ∧ k.x = d.x ∧ k.y = d.y ∧
        k.sideA = d.sideA ∧ k.sideB = d.sideB ∧ k.capacity = d.capacity ∧ k.zone = d.zone ∧ k.resting = [] ∧
        k.state = if (getStack s d.stack).blocked then .suspect else .active) ∧
    (∀ d, DeclareRobot.ofBody b = some d → getRobot s d.robot = none → s.robots.length < 96 →
      ∃ t : State, runSlot slot 2 tag b s = (some .done, t) ∧
        getRobot t d.robot = some {
          id := d.robot, district := d.district, offset := d.offset, gain := d.gain, format := d.format, state := .free
          lentTo := .none, heldBin := none, cell := none, step := none, nextSeq := 0#8, accessHeld := none } ∧
        ∀ r, r ≠ d.robot → getRobot t r = getRobot s r) ∧
    (∀ i, Retire.ofBody b = some (.stack i) → (getStack s i).declared = true → (getStack s i).inUse = false →
      ∃ t : State, runSlot slot 3 tag b s = (some .done, t) ∧ (getStack t i).state = .retired) ∧
    ∀ robot c, Retire.ofBody b = some (.robot robot) → getRobot s robot = some c → c.busy = false →
      ∃ t : State, runSlot slot 3 tag b s = (some .done, t) ∧ getRobot t robot = none ∧
        (∀ r, r ≠ robot → getRobot t r = getRobot s r) ∧ ∀ f ∈ unsentFrames t, f.robot ≠ robot

/-- In a slot of no active relay, an accepted SEED of a stack whose line is clear leaves exactly the listed bins on it and
makes it ACTIVE; an accepted LINES gives each line of its list the function, check time and edge setting listed. -/
def Obligations.SeedAndLinesRequests : Prop :=
  ∀ (s : State) (slot : Nat) (tag : Tag) (b : List Byte), (∀ r ∈ s.relays, r.slot ≠ slot) →
    (∀ i bins, seedOfBody b = some (i, bins) → (getStack s i).declared = true →
      bins.length ≤ (getStack s i).capacity → bins.Nodup → (getStack s i).holder = none → (getStack s i).pend = [] →
      bins.any (restsElsewhere s i) = false → (getStack s i).blocked = false →
      ∃ t : State, runSlot slot 7 tag b s = (some .done, t) ∧ binsOf t i = bins ∧ (getStack t i).state = .active) ∧
    ∀ es, linesOfBody b = some es → linesFit (linesAfter es s.lines) = true → s.lines.length = 32 →
      ∃ t : State, runSlot slot 5 tag b s = (some .done, t) ∧ ∀ e ∈ es, (getLine t e.line).fn = e.fn ∧
        (getLine t e.line).check = e.check ∧ (getLine t e.line).edge = e.edge

/-- In a slot of no active relay, an accepted RELAY enters one record for its tag with the order's fields, at hop 1 with no
end pending; every robot it names is lent to it, and the origin robot holds the bin. Its slot is not ended. -/
def Obligations.RelayIntakeMakesRecord : Prop :=
  ∀ (s : State) (slot : Nat) (tag : Tag) (b : List Byte) (o : RelayOrder), (∀ r ∈ s.relays, r.slot ≠ slot) →
    RelayOrder.ofBody tag b = some o → o.refusal s = none →
    ∃ t r : _, runSlot slot 8 tag b s = (none, t) ∧ t.relays.length = s.relays.length + 1 ∧
      getRelay t tag = some r ∧ r.slot = slot ∧ r.bin = o.bin ∧ r.cls = o.cls ∧ r.budget = o.budget ∧ r.due = o.due ∧
      r.reference = o.reference ∧ r.timingSet = o.timingSet ∧ r.strictLoad = o.strictLoad ∧
      r.allowShuffle = o.allowShuffle ∧ r.abortOnExposure = o.abortOnExposure ∧ r.path = o.path ∧
      r.takers = o.takers ∧ r.hop = 1 ∧ r.endPending = none ∧
      (∀ robot ∈ o.robots, ∃ c, getRobot t robot = some c ∧ c.lentTo = .relay tag) ∧
      ∀ robot, o.origin = .robot robot → ∃ c, getRobot t robot = some c ∧ c.heldBin = some o.bin

/-- In a slot of no active relay, WITHDRAW of an active relay ends it WITHDRAWN, at once or pending, and one of no active
relay is refused UNKNOWN. RULING for a side in T_QUERY with no end pending passes the bin on when it says ACCEPT, to the
next hop with the taker as its giver or to its delivery, and ends the relay LOAD_REJECTED when it says REJECT; for a side
in another state it is refused BUSY. -/
def Obligations.WithdrawAndRulingAct : Prop :=
  ∀ (s : State) (slot : Nat) (own tag : Tag) (b : List Byte), (∀ r ∈ s.relays, r.slot ≠ slot) →
    (withdrawOfBody b = some tag →
      (getRelay s tag = none → runSlot slot 9 own b s = (some .unknown, s)) ∧
      ∀ r, getRelay s tag = some r → r.endPending = none →
        ∃ t : State, runSlot slot 9 own b s = (some .done, t) ∧ Ending tag .withdrawn t) ∧
    ∀ (r : Relay) (accept : Bool), rulingOfBody b = some (tag, accept) → getRelay s tag = some r →
      (r.take.state ≠ .query → runSlot slot 10 own b s = (some .busy, s)) ∧
      (r.take.state = .query → r.endPending = none →
        ∃ t : State, runSlot slot 10 own b s = (some .done, t) ∧
          (accept = false → Ending tag .loadRejected t) ∧
          (accept = true → r.hops ≤ r.hop → Ending tag .delivered t) ∧
          (accept = true → r.hop < r.hops → ∃ r', getRelay t tag = some r' ∧ r'.hop = r.hop + 1 ∧
            r'.give.robot = r.take.robot ∧ r'.giveRefusals = 0 ∧ r'.liftRefusals = 0 ∧ r'.endPending = none))

/-! ## Relays' ends -/

/-- A teardown removes the relay: no bin that rests is owned by it, no wait entry carries its tag, and every robot of its
hop and every later named taker that was lent to it is lent to nothing and holds no bin. Its slot is ended with the
outcome, the hop, the final place read before the robots were released, and the relay's flags, once access is released, its
wait entries and reservation are gone, its bin is an orphan and its robots are let go, the current hop's before the later
takers; a clock that expires at the teardown adds EXPOSED, and a relay without a clock ends with the flags it had. -/
def Obligations.TeardownReleasesEverything : Prop :=
  ∀ (s : State) (tag : Tag) (code : Code) (r : Relay), getRelay s tag = some r →
    getRelay (teardown tag code s) tag = none ∧
    (∀ k ∈ (teardown tag code s).stackRecs, ∀ e ∈ k.resting, e.owner ≠ some tag) ∧
    (∀ k ∈ (teardown tag code s).stackRecs, ∀ e ∈ k.waits, e.tag ≠ tag) ∧
    (∀ robot c, (r.give.robot = some robot ∨ r.take.robot = some robot ∨ some robot ∈ r.takers.drop r.hop) →
      getRobot s robot = some c → c.lentTo = .relay tag →
      ∃ c', getRobot (teardown tag code s) robot = some c' ∧ c'.lentTo = .none ∧ c'.heldBin = none) ∧
    ∀ u : State, u = situationChanged tag true (r.laterTakers.foldl (letGo tag) (r.hopRobots.foldl (letGo tag)
        (orphanBin tag (cancelOwnReservation r (dropRelayWaits tag false
          (r.hopRobots.foldl (fun s h => if boundTo s tag h then releaseAccess h s else s) s)))))) →
      ∃ q, getRelay u tag = some q ∧ u.tick = s.tick ∧ (r.clock = none → q.flags = r.flags) ∧
      (q.flags = r.flags ∨ q.flags = { r.flags with exposed := true }) ∧
      teardown tag code s = removeRelay tag (endRelaySlot r.slot tag r.bin
        { code := code, endTick := s.tick, hop := r.hop, place := finalPlace s r code, flags := q.flags } u)

/-! ## What every step keeps -/

/-- Every step keeps host memory in its canonical form (the model's own law, log 2). -/
def Obligations.StepKeepsMemoryForm : Prop := ∀ s t : State, step s = .next t → MemoryLaw s → MemoryLaw t

/-- Every step keeps the table laws: at most 128 relays, each with its own tag and slot; at most 96 robots, each with its
own id; on every stack, resting plus pending entries at most the capacity, and a wait list with no robot twice and at most
twice the capacity in entries; 64 stacks, 32 lines and 8 standby queues. -/
def Obligations.StepKeepsTableLaws : Prop :=
  ∀ s t : State, step s = .next t →
    (RelayTableLaw s → RelayTableLaw t) ∧ (RobotTableLaw s → RobotTableLaw t) ∧ (StackLaw s → StackLaw t) ∧
    (SizesLaw s → SizesLaw t)

/-- Every step keeps the values kept from a start in their ranges and both ring indices below the notice count. -/
def Obligations.StepKeepsRingIndices : Prop := ∀ s t : State, step s = .next t → KeptLaw s → KeptLaw t

/-- Every step keeps the places of EVENTS and EVENT_MASK that are not named at 0, and RUN at 1 in RUNNING and BROKEN and
at 0 in IDLE and STOPPED. -/
def Obligations.StepKeepsRegisterLaws : Prop :=
  ∀ s t : State, step s = .next t → (ReservedLaw s → ReservedLaw t) ∧ (RunLaw s → RunLaw t)

/-- In EXCHANGE_FAULT every command that is no reset and during which none arrives, if it answers a next state, leaves the
device there, and host memory as the
host's own writes during the command leave it. -/
def Obligations.ExchangeFaultStandsUntilReset : Prop :=
  ∀ (c : Instr) (s t : State), c.resets = false → s.device = .exchangeFault → exec c s = .next t →
    t.device = .exchangeFault ∧ t.mem = Memory.hostWrites s.mem c.bus.writes

/-- No report, fault, beacon, warn, limit of a step timer, expiry of an exposure clock or silence limit changes the tick
counter, its period, the tuning, the lines, hold, CONTROL, EVENT_MASK or EXCHANGE_BASE, or the chain cursor. -/
def Obligations.ReportsAndExpiriesKeepSettings : Prop :=
  ∀ (c : Instr) (s t : State), c.isHop = true → c.bus.reset = none → exec c s = .next t → SameSettings s t
end

