-- ==== Sys2Proof/Laws/Keeps.lean ====
section
/-!
SUPPORT. What the rules leave alone. `Inner P` says that a property P of states survives the single updates that the
blocks behind the Exchange Port make short of a completed move: changes of a stack that keep its place, its laws, its bins
and, but for an entry into SUSPECT, its state; changes of robots that keep their declarations and cells; changes of relays that
keep their order fields (`Quiet P`); and what the Exchange Port does with a notice or a relay's end. `Moves P` adds a completed
set-down or lift. Each rule then keeps P, by one lemma for each rule.
-/

namespace Sys2Proof.Machine

set_option Elab.async false

/-- The order fields that no rule changes after intake (R85), and the pending end, which stands once decided (R63). -/
structure Relay.SameOrder (r r' : Relay) : Prop where
  tag : r'.tag = r.tag
  slot : r'.slot = r.slot
  bin : r'.bin = r.bin
  cls : r'.cls = r.cls
  budget : r'.budget = r.budget
  due : r'.due = r.due
  timingSet : r'.timingSet = r.timingSet
  strictLoad : r'.strictLoad = r.strictLoad
  allowShuffle : r'.allowShuffle = r.allowShuffle
  abortOnExposure : r'.abortOnExposure = r.abortOnExposure
  path : r'.path = r.path
  origin : r'.origin = r.origin
  endPending : r'.endPending = r.endPending

theorem Relay.SameOrder.refl (r : Relay) : Relay.SameOrder r r := by constructor <;> rfl

/-- What a declaration and the reports of a robot's cell set (R100, R105). -/
structure Robot.Same (c c' : Robot) : Prop where
  id : c'.id = c.id
  district : c'.district = c.district
  offset : c'.offset = c.offset
  gain : c'.gain = c.gain
  format : c'.format = c.format
  cell : c'.cell = c.cell

theorem Robot.Same.refl (c : Robot) : Robot.Same c c := by constructor <;> rfl

/-- The place of a stack, its bins bottom to top, its state, which may go from ACTIVE to SUSPECT, and its laws. -/
structure StackRec.Same (k k' : StackRec) : Prop where
  x : k'.x = k.x
  y : k'.y = k.y
  sideA : k'.sideA = k.sideA
  sideB : k'.sideB = k.sideB
  capacity : k'.capacity = k.capacity
  zone : k'.zone = k.zone
  state : k'.state = k.state ∨ (k.state = .active ∧ k'.state = .suspect)
  bins : k'.resting.map RestEntry.bin = k.resting.map RestEntry.bin
  sound : k.Sound → k'.Sound

/-- The laws hold of a record of the same capacity with no more entries and a wait list that has lost entries only. -/
theorem StackRec.Sound.shrink {k k' : StackRec} (h : k.Sound) (hc : k'.capacity = k.capacity)
    (hp : k'.resting.length + k'.pend.length ≤ k.resting.length + k.pend.length)
    (hw : k'.waits.Sublist k.waits) : k'.Sound :=
  ⟨hc ▸ hp.trans h.1, hc ▸ hw.length_le.trans h.2.1, h.2.2.sublist (hw.map _)⟩

/-- A change that keeps the place, the state and the bins of a stack and adds no entry. -/
theorem StackRec.Same.shrink {k k' : StackRec} (hr : k'.resting = k.resting) (hp : k'.pend.length ≤ k.pend.length)
    (hw : k'.waits.Sublist k.waits) (x : k'.x = k.x := by rfl) (y : k'.y = k.y := by rfl)
    (a : k'.sideA = k.sideA := by rfl) (b : k'.sideB = k.sideB := by rfl)
    (c : k'.capacity = k.capacity := by rfl) (z : k'.zone = k.zone := by rfl) (st : k'.state = k.state := by rfl) :
    StackRec.Same k k' :=
  ⟨x, y, a, b, c, z, .inl st, by rw [hr], fun h => h.shrink c (by rw [hr]; omega) hw⟩

/-- A change that touches neither the bins, the pending list nor the wait list. -/
theorem StackRec.Same.quiet {k k' : StackRec} (hr : k'.resting = k.resting := by rfl) (hp : k'.pend = k.pend := by rfl)
    (hw : k'.waits = k.waits := by rfl) (x : k'.x = k.x := by rfl) (y : k'.y = k.y := by rfl)
    (a : k'.sideA = k.sideA := by rfl) (b : k'.sideB = k.sideB := by rfl)
    (c : k'.capacity = k.capacity := by rfl) (z : k'.zone = k.zone := by rfl) (st : k'.state = k.state := by rfl) :
    StackRec.Same k k' :=
  .shrink hr (by rw [hp]) (by rw [hw]) x y a b c z st

/-- A property that the updates of access and placement keep. -/
structure Quiet (P : State → Prop) : Prop where
  stack : ∀ s i f, StackRec.Same (getStack s i) (f (getStack s i)) → P s → P (modStack i f s)
  stackRecs : ∀ s (g : StackRec → StackRec), (∀ k, StackRec.Same k (g k)) → P s →
    P { s with stackRecs := s.stackRecs.map g }
  placeWait : ∀ s v, P s → P { s with placeWait := v }
  standby : ∀ s v, v.length = s.standby.length → P s → P { s with standby := v }
  outq : ∀ s v, P s → P { s with outq := v }
  robots : ∀ s (g : Robot → Robot), (∀ c, Robot.Same c (g c)) → P s → P { s with robots := s.robots.map g }
  relays : ∀ s (g : Relay → Relay), (∀ r, Relay.SameOrder r (g r)) → P s → P { s with relays := s.relays.map g }

/-- A property that the ends of relays, the notices and the exposure clock keep as well. -/
structure Inner (P : State → Prop) : Prop extends Quiet P where
  deferred : ∀ s v, P s → P { s with deferred := v }
  decide : ∀ s t r code, getRelay s t = some r → r.endPending = none → P s →
    P (modRelay t (fun r => { r with endPending := some code }) s)
  remove : ∀ s t, P s → P (removeRelay t s)
  toTail : ∀ s t, P s → P (toTail t s)
  notify : ∀ s n, P s → P (notify n s)
  endSlot : ∀ s slot tag bin o, P s → P (endRelaySlot slot tag bin o s)

/-- A property that a completed set-down or lift keeps as well. -/
structure Moves (P : State → Prop) : Prop extends Inner P where
  anyStack : ∀ s i f, ((getStack s i).Sound → (f (getStack s i)).Sound) → P s → P (modStack i f s)

variable {P : State → Prop} {s : State}

/-! ## Tables -/

theorem modStack_keeps (h : Quiet P) (i : Nat) (f : StackRec → StackRec) (hs : P s)
    (hf : StackRec.Same (getStack s i) (f (getStack s i)) := by exact .quiet) : P (modStack i f s) :=
  h.stack _ _ _ hf hs

theorem modQueue_keeps (h : Quiet P) (d : Nat) (f : List Nat → List Nat) (hs : P s) : P (modQueue d f s) :=
  h.standby _ _ (List.length_modify ..) hs

theorem dropWaits_keeps (h : Quiet P) (p : Access → Bool) (hs : P s) : P (dropWaits p s) :=
  h.stackRecs _ _ (fun _ => .shrink rfl le_rfl List.filter_sublist) hs

theorem queueFrame_keeps (h : Quiet P) (f : OutFrame) (hs : P s) : P (queueFrame f s) := h.outq _ _ hs

theorem removeUnsent_keeps (h : Quiet P) (p : OutFrame → Bool) (hs : P s) : P (removeUnsent p s) := h.outq _ _ hs

theorem modRobot_keeps (h : Quiet P) (r : Nat) {f : Robot → Robot} (hs : P s)
    (hf : ∀ c, Robot.Same c (f c) := by intro _; constructor <;> rfl) : P (modRobot r f s) :=
  h.robots _ _ (fun c => by split <;> [exact hf c; exact .refl c]) hs

theorem modRelay_keeps (h : Quiet P) (t : Tag) {f : Relay → Relay} (hf : ∀ r, Relay.SameOrder r (f r)) (hs : P s) :
    P (modRelay t f s) :=
  h.relays _ _ (fun r => by split <;> [exact hf r; exact .refl r]) hs

theorem onRelay_keeps {t : Tag} {f : Relay → State → State} (hs : P s)
    (hf : ∀ r, getRelay s t = some r → P (f r s)) : P (onRelay t f s) := by
  unfold onRelay; split <;> [exact hf _ ‹_›; exact hs]

theorem foldl_keeps {α : Type} {f : State → α → State} (hf : ∀ s a, P s → P (f s a)) (l : List α) (hs : P s) :
    P (l.foldl f s) := by
  induction l generalizing s with
  | nil => exact hs
  | cons a l ih => exact ih (hf _ _ hs)

theorem setFlag_keeps (h : Quiet P) (t : Tag) (f : Sticky → Sticky) (hs : P s) : P (setFlag t f s) :=
  modRelay_keeps h t (fun _ => by constructor <;> rfl) hs

theorem takerToAny_keeps (h : Quiet P) (t : Tag) (k : Nat) (hs : P s) : P (takerToAny t k s) :=
  modRelay_keeps h t (fun _ => by constructor <;> rfl) hs

/-! ## Links, steps and access -/

theorem queueRelease_keeps (h : Quiet P) (r : Nat) (hs : P s) : P (queueRelease r s) := by
  unfold queueRelease; split <;> [exact hs; exact queueFrame_keeps h _ hs]

theorem removeStepFrame_keeps (h : Quiet P) (r : Nat) (hs : P s) : P (removeStepFrame r s) := removeUnsent_keeps h _ hs

theorem openStep_keeps (h : Quiet P) (r : Nat) (k : StepKind) (i l : Nat) (b : BinId) (hs : P s) :
    P (openStep r k i l b s) := by
  unfold openStep; split
  · exact hs
  · exact queueFrame_keeps h _ (modRobot_keeps h _ hs)

theorem closeStep_keeps (h : Quiet P) (r : Nat) (hs : P s) : P (closeStep r s) :=
  removeStepFrame_keeps h _ (modRobot_keeps h _ hs)

theorem enterGive_keeps (h : Quiet P) (t : Tag) (st : GiveState) (hs : P s) : P (enterGive t st s) :=
  modRelay_keeps h t (fun _ => by constructor <;> rfl) hs

theorem enterTake_keeps (h : Quiet P) (t : Tag) (st : TakeState) (hs : P s) : P (enterTake t st s) :=
  modRelay_keeps h t (fun _ => by constructor <;> rfl) hs

theorem giveStep_keeps (h : Quiet P) (t : Tag) (r : Nat) (k : StepKind) (i l : Nat) (b : BinId) (st : GiveState)
    (hs : P s) : P (giveStep t r k i l b st s) :=
  enterGive_keeps h _ _ (modRelay_keeps h t (fun _ => by constructor <;> rfl) (openStep_keeps h _ _ _ _ _ hs))

theorem takeStep_keeps (h : Quiet P) (t : Tag) (r : Nat) (k : StepKind) (i l : Nat) (b : BinId) (st : TakeState)
    (hs : P s) : P (takeStep t r k i l b st s) :=
  enterTake_keeps h _ _ (modRelay_keeps h t (fun _ => by constructor <;> rfl) (openStep_keeps h _ _ _ _ _ hs))

theorem closeSide_keeps (h : Quiet P) (t : Tag) (r : Nat) (hs : P s) : P (closeSide t r s) :=
  modRelay_keeps h t (fun _ => by dsimp only; split <;> (try split) <;> constructor <;> rfl) hs

theorem grantTo_keeps (h : Quiet P) (i : Nat) (e : Access) (l : Nat) (hs : P s) : P (grantTo i e l s) := by
  refine onRelay_keeps hs fun r _ => ?_
  split <;> split
  · exact giveStep_keeps h _ _ _ _ _ _ _ hs
  · exact hs
  · exact takeStep_keeps h _ _ _ _ _ _ _ hs
  · exact hs
  · exact takeStep_keeps h _ _ _ _ _ _ _ hs
  · exact hs
  · exact takeStep_keeps h _ _ _ _ _ _ _ hs
  · exact hs

theorem arbiter_keeps (h : Quiet P) (i : Nat) (hs : P s) : P (arbiter i s) := by
  unfold arbiter; split
  · exact hs
  · exact grantTo_keeps h _ _ _ (modRobot_keeps h _ (modStack_keeps h _ _ hs (.shrink rfl le_rfl List.erase_sublist)))

/-- A join that the store accepts keeps the laws of the wait list (R12). -/
theorem joinWaits_sound {i : Nat} {e : Access} (b : Bool) (ha : joinAccepted s i e = true) (hk : (getStack s i).Sound) :
    ({ getStack s i with
        waits := if b then e :: (getStack s i).waits else (getStack s i).waits ++ [e] } : StackRec).Sound := by
  obtain ⟨h1, h2, h3⟩ := hk
  simp only [joinAccepted, Bool.and_eq_true, Bool.not_eq_true', List.any_eq_false, beq_iff_eq, decide_eq_true_eq] at ha
  obtain ⟨⟨h4, h5⟩, -⟩ := ha
  have h6 : e.robot ∉ (getStack s i).waits.map Access.robot := fun h => by
    obtain ⟨w, hw, he⟩ := List.mem_map.mp h
    exact h4 w hw he
  refine ⟨h1, ?_, ?_⟩ <;> cases b
  · simpa using h5
  · simpa using h5
  · simpa [List.nodup_append, h3] using fun w hw he => h4 w hw he
  · simpa [h3] using fun w hw he => h4 w hw he

theorem joinWaits_keeps (h : Quiet P) {i : Nat} (b : Bool) {e : Access} (ha : joinAccepted s i e = true) (hs : P s) :
    P (joinWaits i b e s) :=
  modStack_keeps h _ _ hs ⟨rfl, rfl, rfl, rfl, rfl, rfl, .inl rfl, rfl, joinWaits_sound b ha⟩

theorem clearAccess_keeps (h : Quiet P) (i r : Nat) (hs : P s) : P (clearAccess i r s) :=
  modRobot_keeps h _ (modStack_keeps h _ _ hs)

theorem releaseAccess_keeps (h : Quiet P) (r : Nat) (hs : P s) : P (releaseAccess r s) := by
  unfold releaseAccess; split <;> [exact hs; exact arbiter_keeps h _ (clearAccess_keeps h _ _ hs)]

theorem onTopReport_sameOrder (tn : Tuning) (i : Nat) (k : StackRec) (r : Relay) :
    Relay.SameOrder r (Relay.onTopReport tn i k r) := by
  unfold Relay.onTopReport; split <;> (try split) <;> (try split) <;> constructor <;> rfl

theorem topReport_keeps (h : Quiet P) (i : Nat) (hs : P s) : P (topReport i s) :=
  h.relays _ _ (onTopReport_sameOrder _ _ _) hs

/-! ## Placement -/

/-- One pending entry more keeps the law of a stack that has room (R4). -/
theorem StackRec.Same.addPend {k : StackRec} (e : PendEntry) (hr : k.hasRoom = true) :
    StackRec.Same k { k with pend := k.pend ++ [e] } := by
  refine ⟨rfl, rfl, rfl, rfl, rfl, rfl, .inl rfl, rfl, fun h => ⟨?_, h.2⟩⟩
  simp only [StackRec.hasRoom, decide_eq_true_eq] at hr
  simp only [List.length_append, List.length_cons, List.length_nil]
  omega

theorem reserve_keeps (h : Quiet P) {i : Nat} {b : BinId} {t : Option Tag} {d : Option Nat} {s' : State} (hs : P s)
    (hr : reserve i b t d s = some s') : P s' := by
  unfold reserve at hr; split at hr <;> [skip; cases hr]
  rename_i ho
  cases hr; exact modStack_keeps h _ _ hs (.addPend _ (Bool.and_eq_true_iff.mp ho).2)

theorem blankHold_keeps (h : Quiet P) {i : Nat} {t : Option Tag} {r : Nat} {s' : State} (hs : P s)
    (hr : blankHold i t r s = some s') : P s' := by
  unfold blankHold at hr; split at hr <;> [skip; cases hr]
  rename_i ho
  cases hr; exact modStack_keeps h _ _ hs (.addPend _ ho.2)

theorem convertPend_length (r : Nat) (b : BinId) (d : Option Nat) (l : List PendEntry) :
    (convertPend r b d l).length = l.length := by
  induction l with
  | nil => rfl
  | cons e l ih => cases e <;> unfold convertPend <;> (try split) <;> simp [ih]

theorem convertHold_keeps (h : Quiet P) (i r : Nat) (b : BinId) (d : Option Nat) (hs : P s) :
    P (convertHold i r b d s) := modStack_keeps h _ _ hs (.shrink rfl (convertPend_length ..).le (.refl _))

theorem approachTake_keeps (h : Quiet P) (t : Tag) (i : Nat) (r : Relay) (hs : P s) : P (approachTake t i r s) := by
  unfold approachTake; split <;> [exact takeStep_keeps h _ _ _ _ _ _ _ hs; exact hs]

theorem goOnIdle_keeps (h : Quiet P) (t : Tag) (hs : P s) : P (goOnIdle t s) := by
  refine onRelay_keeps hs fun r _ => ?_
  split
  · split <;> [exact approachTake_keeps h _ _ _ hs; exact hs]
  · exact hs

theorem bindingChanged_keeps (h : Quiet P) (t : Tag) (hs : P s) : P (bindingChanged t s) := by
  refine onRelay_keeps hs fun r _ => ?_
  split
  · exact goOnIdle_keeps h _ hs
  · exact goOnIdle_keeps h _ (enterTake_keeps h _ _ hs)
  · exact hs

theorem setBinding_keeps (h : Quiet P) (t : Tag) (b : Option Nat) (hs : P s) : P (setBinding t b s) :=
  bindingChanged_keeps h _ (modRelay_keeps h t (fun _ => by constructor <;> rfl) hs)

theorem placed_keeps (h : Quiet P) (t : Tag) (i : Nat) (r : Relay) (hs : P s) : P (placed t i r s) := by
  have h1 : P (modRelay t (fun q => { q with binding := some i }) s) :=
    modRelay_keeps h t (fun _ => by constructor <;> rfl) hs
  unfold placed; dsimp only
  split
  · exact bindingChanged_keeps h _ (giveStep_keeps h _ _ _ _ _ _ _ h1)
  · exact bindingChanged_keeps h _ h1

theorem tryPlace_keeps (h : Quiet P) {t : Tag} {r : Relay} {s' : State} (hs : P s) (hp : tryPlace t r s = some s') :
    P s' := by
  unfold tryPlace at hp; split at hp
  · cases hp
  · rw [Option.map_eq_some_iff] at hp
    obtain ⟨s1, h1, rfl⟩ := hp
    exact placed_keeps h _ _ _ (reserve_keeps h hs h1)

theorem askPlacement_keeps (h : Quiet P) (t : Tag) (hs : P s) : P (askPlacement t s) := by
  refine onRelay_keeps hs fun r _ => ?_
  split
  · exact hs
  · split
    · exact tryPlace_keeps h hs ‹_›
    · split <;> [exact hs; exact h.placeWait _ _ hs]

theorem enterPlacing_keeps (h : Quiet P) (t : Tag) (hs : P s) : P (enterPlacing t s) :=
  askPlacement_keeps h _ (enterGive_keeps h _ _ hs)

theorem retryOne_keeps (h : Quiet P) (t : Tag) (hs : P s) : P (retryOne s t) := by
  unfold retryOne; split
  · exact hs
  · split
    · exact h.placeWait _ _ (tryPlace_keeps h hs ‹_›)
    · exact hs

theorem retryPlacement_keeps (h : Quiet P) (hs : P s) : P (retryPlacement s) :=
  foldl_keeps (fun _ _ hs => retryOne_keeps h _ hs) _ hs

theorem stackChanged_keeps (h : Quiet P) (i : Nat) (hs : P s) : P (stackChanged i s) :=
  retryPlacement_keeps h (arbiter_keeps h _ hs)

theorem cancelReservation_keeps (h : Quiet P) (i : Nat) (b : BinId) (hs : P s) : P (cancelReservation i b s) := by
  unfold cancelReservation; split <;> [exact stackChanged_keeps h _ (modStack_keeps h _ _ hs
    (.shrink rfl List.eraseP_sublist.length_le (.refl _))); exact hs]

theorem dropHold_keeps (h : Quiet P) (i r : Nat) (hs : P s) : P (dropHold i r s) := by
  unfold dropHold; split <;> [exact stackChanged_keeps h _ (modStack_keeps h _ _ hs
    (.shrink rfl List.eraseP_sublist.length_le (.refl _))); exact hs]

/-! ## Exposure and load -/

theorem expireClock_keeps (h : Inner P) (t : Tag) (hs : P s) : P (expireClock t s) :=
  onRelay_keeps hs fun _ _ => h.notify _ _ (modRelay_keeps h.toQuiet t (fun _ => by constructor <;> rfl) hs)

theorem situationChanged_keeps (h : Inner P) (t : Tag) (b : Bool) (hs : P s) : P (situationChanged t b s) := by
  refine onRelay_keeps hs fun r _ => ?_
  split
  · exact hs
  · split
    · exact hs
    · dsimp only
      split
      · split
        · exact expireClock_keeps h _ hs
        · exact h.deferred _ _ (expireClock_keeps h _ hs)
      · exact modRelay_keeps h.toQuiet t (fun _ => by constructor <;> rfl) hs

theorem shuffleLoad_keeps (h : Quiet P) (q : Tag) (c : Robot) (n : Nat) (hs : P s) : P (shuffleLoad q c n s) := by
  refine onRelay_keeps hs fun r _ => ?_
  split
  · split <;> [exact setFlag_keeps h _ _ hs; exact hs]
  · split
    · exact setFlag_keeps h _ _ hs
    · exact setFlag_keeps h _ _ hs
    · exact hs
    · exact hs

/-! ## Lending, release and ends -/

theorem lend_keeps (h : Quiet P) (r : Nat) (t : Tag) (hs : P s) : P (lend r t s) := modRobot_keeps h _ hs

theorem releaseRobot_keeps (h : Quiet P) (r : Nat) (hs : P s) : P (releaseRobot r s) :=
  modRobot_keeps h _ (queueRelease_keeps h _ hs)

theorem releaseWithNotice_keeps (h : Inner P) (r : Nat) (t : Tag) (side : Side) (hs : P s) :
    P (releaseWithNotice r t side s) := h.notify _ _ (releaseRobot_keeps h.toQuiet _ hs)

theorem unbind_keeps (h : Quiet P) (r : Nat) (hs : P s) : P (unbind r s) := modRobot_keeps h _ hs

theorem letGo_keeps (h : Quiet P) (t : Tag) (r : Nat) (hs : P s) : P (letGo t s r) := by
  unfold letGo; split
  · exact hs
  · split
    · split <;> [exact unbind_keeps h _ hs; exact releaseRobot_keeps h _ hs]
    · exact hs

theorem dropRelayWaits_keeps (h : Quiet P) (t : Tag) (b : Bool) (hs : P s) : P (dropRelayWaits t b s) :=
  h.placeWait _ _ (dropWaits_keeps h _ hs)

theorem cancelOwnReservation_keeps (h : Quiet P) (r : Relay) (hs : P s) : P (cancelOwnReservation r s) := by
  unfold cancelOwnReservation; split <;> [exact cancelReservation_keeps h _ _ hs; exact hs]

theorem orphanBin_keeps (h : Quiet P) (t : Tag) (hs : P s) : P (orphanBin t s) := by
  refine h.stackRecs _ _ (fun k => ⟨rfl, rfl, rfl, rfl, rfl, rfl, .inl rfl, ?_, fun hk => ?_⟩) hs
  · rw [List.map_map]; congr 1; funext e; dsimp only [Function.comp]; split <;> rfl
  · exact hk.shrink rfl (by simp) (.refl _)

theorem teardown_keeps (h : Inner P) (t : Tag) (c : Code) (hs : P s) : P (teardown t c s) := by
  refine onRelay_keeps hs fun r _ => ?_
  refine h.remove _ _ (h.endSlot _ _ _ _ _ (situationChanged_keeps h _ _ ?_))
  refine foldl_keeps (fun _ _ hs => letGo_keeps h.toQuiet _ _ hs) _ (foldl_keeps (fun _ _ hs => letGo_keeps h.toQuiet _ _ hs) _ ?_)
  refine orphanBin_keeps h.toQuiet _ (cancelOwnReservation_keeps h.toQuiet _ (dropRelayWaits_keeps h.toQuiet _ _ ?_))
  exact foldl_keeps (fun _ _ hs => by split <;> [exact releaseAccess_keeps h.toQuiet _ hs; exact hs]) _ hs

theorem decideEnd_keeps (h : Inner P) (t : Tag) (c : Code) (hs : P s) : P (decideEnd t c s) := by
  refine onRelay_keeps hs fun r hr => ?_
  split
  · exact hs
  · split
    · exact dropRelayWaits_keeps h.toQuiet _ _ (h.decide _ _ _ _ hr (Option.not_isSome_iff_eq_none.mp ‹_›) hs)
    · exact teardown_keeps h _ _ hs

theorem settle_keeps (h : Inner P) (t : Tag) (hs : P s) : P (settle t s) := by
  refine onRelay_keeps hs fun r _ => ?_
  split
  · split <;> [exact hs; exact teardown_keeps h _ _ hs]
  · exact hs

theorem endRelay_keeps (h : Inner P) (t : Tag) (c : Code) (hs : P s) : P (endRelay t c s) :=
  settle_keeps h _ (decideEnd_keeps h _ _ hs)

theorem expiryActs_keeps (h : Inner P) (t : Tag) (hs : P s) : P (expiryActs t s) :=
  onRelay_keeps hs fun _ _ => by split <;> [exact endRelay_keeps h _ _ hs; exact hs]

theorem actDeferred_keeps (h : Inner P) (hs : P s) : P (actDeferred s) :=
  foldl_keeps (fun _ _ hs => expiryActs_keeps h _ hs) _ (h.deferred _ _ hs)

/-! ## Shuffles -/

theorem takeJoin_keeps (h : Quiet P) (t : Tag) (i : Nat) (b : Bool) (hs : P s) : P (takeJoin t i b s) := by
  refine onRelay_keeps hs fun r _ => ?_
  split
  · exact hs
  · dsimp only
    split
    · rename_i ha
      exact arbiter_keeps h _ (enterTake_keeps h _ _ (joinWaits_keeps h _ (Bool.and_eq_true_iff.mp ha).2 hs))
    · exact enterTake_keeps h _ _ hs

theorem onShuffle_keeps {p : Tag} {f : Relay → Shuffle → Nat → State → State} (hs : P s)
    (hf : ∀ r sh robot, P (f r sh robot s)) : P (onShuffle p f s) :=
  onRelay_keeps hs fun _ _ => by split <;> [exact hf _ _ _; exact hs]

theorem modShuffle_keeps (h : Quiet P) (p : Tag) (f : Shuffle → Shuffle) (hs : P s) : P (modShuffle p f s) :=
  modRelay_keeps h p (fun _ => by constructor <;> rfl) hs

theorem clearShuffle_keeps (h : Quiet P) (p : Tag) (hs : P s) : P (clearShuffle p s) :=
  modRelay_keeps h p (fun _ => by constructor <;> rfl) hs

theorem setCarried_keeps (h : Quiet P) (q : Option Tag) (b : Bool) (hs : P s) : P (setCarried q b s) := by
  unfold setCarried; split <;> [exact modRelay_keeps h _ (fun _ => by constructor <;> rfl) hs; exact hs]

theorem onMoved_keeps {q : Option Tag} {f : Tag → State → State} (hs : P s) (hf : ∀ t, P (f t s)) :
    P (onMoved q f s) := by
  unfold onMoved; split <;> [exact hf _; exact hs]

theorem cancelBin_keeps (h : Quiet P) (b : BinId) (hs : P s) : P (cancelBin b s) := by
  unfold cancelBin; split <;> [exact cancelReservation_keeps h _ _ hs; exact hs]

theorem failShuffle_keeps (h : Inner P) (p : Tag) (c : Code) (hs : P s) : P (failShuffle p c s) := by
  refine onShuffle_keeps hs fun r sh robot => ?_
  have h1 := dropHold_keeps h.toQuiet sh.source robot (cancelBin_keeps h.toQuiet sh.movedBin
    (dropWaits_keeps h.toQuiet (fun e => e.robot == robot) (releaseAccess_keeps h.toQuiet robot hs)))
  have h2 := setCarried_keeps h.toQuiet sh.movedRelay false (enterTake_keeps h.toQuiet p .done (clearShuffle_keeps h.toQuiet p h1))
  exact endRelay_keeps h _ _ (onMoved_keeps h2 fun _ => endRelay_keeps h _ _ h2)

theorem joinShuffleSet_keeps (h : Quiet P) {p : Tag} {i : Nat} {sh : Shuffle} {robot : Nat} {s' : State} (hs : P s)
    (hj : joinShuffleSet p i sh robot s = some s') : P s' := by
  unfold joinShuffleSet at hj; dsimp only at hj; split at hj
  · cases hj; exact arbiter_keeps h _ (enterTake_keeps h _ _ (joinWaits_keeps h _ (by assumption) hs))
  · cases hj

theorem goBack_keeps (h : Inner P) (p : Tag) (hs : P s) : P (goBack p s) := by
  refine onShuffle_keeps hs fun r sh robot => ?_
  have h1 := modShuffle_keeps h.toQuiet p (fun sh => { sh with target := none, returning := true })
    (convertHold_keeps h.toQuiet sh.source robot sh.movedBin sh.boundDistrict hs)
  dsimp only; split
  · exact joinShuffleSet_keeps h.toQuiet h1 ‹_›
  · exact failShuffle_keeps h _ _ h1

theorem placeTarget_keeps (h : Quiet P) (p : Tag) (hs : P s) : P (placeTarget p s) := by
  refine onShuffle_keeps hs fun r sh robot => ?_
  split
  · exact modShuffle_keeps h _ _ hs
  · split
    · exact modShuffle_keeps h _ _ (reserve_keeps h hs ‹_›)
    · exact modShuffle_keeps h _ _ hs

theorem excludeTarget_keeps (h : Quiet P) (p : Tag) (j : Nat) (hs : P s) : P (excludeTarget p j s) :=
  modShuffle_keeps h _ _ hs

theorem joinTarget_keeps (h : Inner P) (n : Nat) (p : Tag) (hs : P s) : P (joinTarget n p s) := by
  induction n generalizing s with
  | zero => exact goBack_keeps h p hs
  | succ n ih =>
    refine onShuffle_keeps hs fun r sh robot => ?_
    split
    · exact goBack_keeps h p hs
    · split
      · exact joinShuffleSet_keeps h.toQuiet hs ‹_›
      · exact ih (placeTarget_keeps h.toQuiet _ (excludeTarget_keeps h.toQuiet _ _ (cancelReservation_keeps h.toQuiet _ _ hs)))

theorem joinSomeTarget_keeps (h : Inner P) (p : Tag) (hs : P s) : P (joinSomeTarget p s) := joinTarget_keeps h _ _ hs

theorem setback_keeps (h : Inner P) (p : Tag) (j : Nat) (hs : P s) : P (setback p j s) := by
  refine onShuffle_keeps hs fun r sh robot => ?_
  have h1 := excludeTarget_keeps h.toQuiet p j (cancelReservation_keeps h.toQuiet j sh.movedBin hs)
  dsimp only; split
  · exact joinSomeTarget_keeps h _ (placeTarget_keeps h.toQuiet _ (modShuffle_keeps h.toQuiet _ _ h1))
  · exact failShuffle_keeps h _ _ h1

theorem lostTarget_keeps (h : Inner P) (p : Tag) (j : Nat) (hs : P s) : P (lostTarget p j s) := by
  refine onShuffle_keeps hs fun r sh robot => ?_
  have h1 := placeTarget_keeps h.toQuiet p (excludeTarget_keeps h.toQuiet p j hs)
  split
  · exact h1
  · exact joinSomeTarget_keeps h _ h1
  · exact hs

theorem returnShuffler_keeps (h : Inner P) (p : Tag) (hs : P s) : P (returnShuffler p s) := by
  refine onShuffle_keeps hs fun r sh robot => ?_
  have h1 := clearShuffle_keeps h.toQuiet p hs
  dsimp only; split
  · exact settle_keeps h _ (enterTake_keeps h.toQuiet _ _ h1)
  · split
    · split <;> [exact takeJoin_keeps h.toQuiet _ _ _ h1; exact enterTake_keeps h.toQuiet _ _ h1]
    · exact goOnIdle_keeps h.toQuiet _ (enterTake_keeps h.toQuiet _ _ h1)

theorem settleMoved_keeps (h : Inner P) (q : Tag) (hs : P s) : P (settleMoved q s) := by
  refine onRelay_keeps hs fun r _ => ?_
  split
  · split <;> [exact hs; exact teardown_keeps h _ _ hs]
  · exact hs

theorem moveTaker_keeps (h : Quiet P) (q : Tag) (i j : Nat) (hs : P s) : P (moveTaker q i j s) := by
  refine onRelay_keeps hs fun r _ => ?_
  split
  · split <;> [exact takeJoin_keeps h _ _ _ (modStack_keeps h _ _ hs
      (.shrink rfl le_rfl List.filter_sublist)); exact hs]
  · exact goOnIdle_keeps h _ (enterTake_keeps h _ _ hs)
  · exact hs

/-- Wait entries changed in place, each keeping its robot, keep the laws of a stack (R13). -/
theorem StackRec.Same.mapWaits {k : StackRec} (g : Access → Access) (hg : ∀ e, (g e).robot = e.robot) :
    StackRec.Same k { k with waits := k.waits.map g } := by
  refine ⟨rfl, rfl, rfl, rfl, rfl, rfl, .inl rfl, rfl, fun h => ⟨h.1, by simpa using h.2.1, ?_⟩⟩
  have : Access.robot ∘ g = Access.robot := funext hg
  simpa [this] using h.2.2

theorem startShuffle_keeps (h : Quiet P) {p : Tag} {s' : State} (hs : P s) (hp : startShuffle p s = some s') :
    P s' := by
  unfold startShuffle at hp
  split at hp
  · cases hp
  split at hp
  · split at hp
    · split at hp
      · cases hp
      split at hp
      · cases hp
      dsimp only at hp
      split at hp
      · cases hp
      · rename_i s1 hb
        cases hp
        rw [Option.bind_eq_some_iff] at hb
        obtain ⟨s2, hr, hb⟩ := hb
        exact arbiter_keeps h _ (modStack_keeps h _ _ (modRelay_keeps h p (fun _ => by constructor <;> rfl)
          (blankHold_keeps h (reserve_keeps h hs hr) hb)) (.mapWaits _ fun e => by split <;> rfl))
    · cases hp
  · cases hp

/-! ## SUSPECT and completions -/

theorem giveReservationLost_keeps (h : Quiet P) (t : Tag) (i : Nat) (hs : P s) : P (giveReservationLost t i s) := by
  refine onRelay_keeps hs fun r _ => ?_
  have h1 := setBinding_keeps h t none
    (modRelay_keeps h t (f := fun r => { r with refused := some i }) (fun _ => by constructor <;> rfl) hs)
  split
  · split
    · exact h1
    · exact enterPlacing_keeps h _ h1
    all_goals exact hs
  · exact hs

theorem shuffleReservationLost_keeps (h : Inner P) (p : Tag) (i : Nat) (hs : P s) :
    P (shuffleReservationLost p i s) := by
  refine onShuffle_keeps hs fun r sh robot => ?_
  split
  · exact lostTarget_keeps h _ _ hs
  · split <;> [exact failShuffle_keeps h _ _ hs; exact hs]

theorem handBack_keeps (h : Inner P) (i : Nat) (e : PendEntry) (hs : P s) : P (handBack i s e) := by
  unfold handBack; split
  · exact hs
  · split
    · exact shuffleReservationLost_keeps h _ _ hs
    · split <;> [exact giveReservationLost_keeps h.toQuiet _ _ hs; exact hs]

theorem waitHandBack_keeps (h : Quiet P) (i : Nat) (e : Access) (hs : P s) : P (waitHandBack i s e) := by
  unfold waitHandBack; split
  · refine onRelay_keeps hs fun r _ => ?_
    split <;> [exact takeJoin_keeps h _ _ _ (enterTake_keeps h _ _ hs); exact hs]
  · exact hs

theorem enterSuspect_keeps (h : Inner P) (i : Nat) (c : Cause) (t : Tag) (r : Nat) (b : BinId)
    (ha : (getStack s i).state = .active) (hs : P s) : P (enterSuspect i c t r b s) := by
  refine retryPlacement_keeps h.toQuiet (foldl_keeps (fun _ _ hs => waitHandBack_keeps h.toQuiet _ _ hs) _
    (modStack_keeps h.toQuiet _ _ ?_ (.shrink rfl le_rfl (List.nil_sublist _))))
  refine foldl_keeps (fun _ _ hs => handBack_keeps h _ _ hs) _
    (modStack_keeps h.toQuiet _ _ ?_ (.shrink rfl (List.length_filter_le ..) (.refl _)))
  exact h.notify _ _ (h.stack _ _ _ ⟨rfl, rfl, rfl, rfl, rfl, rfl, .inr ⟨ha, rfl⟩, rfl, id⟩ hs)

theorem suspectCause_keeps (h : Inner P) (i : Nat) (c : Cause) (t : Tag) (r : Nat) (b : BinId) (hs : P s) :
    P (suspectCause i c t r b s) := by
  unfold suspectCause; split <;> [exact enterSuspect_keeps h _ _ _ _ _ ‹_› hs; exact hs]

theorem loseAccess_keeps (h : Inner P) (i r : Nat) (c : Cause) (hs : P s) : P (loseAccess i r c s) := by
  unfold loseAccess; split
  · exact suspectCause_keeps h _ _ _ _ _ (clearAccess_keeps h.toQuiet _ _ hs)
  · exact clearAccess_keeps h.toQuiet _ _ hs

theorem overfillTest_keeps (h : Inner P) (i : Nat) (hs : P s) : P (overfillTest i s) := by
  unfold overfillTest; split <;> [exact suspectCause_keeps h _ _ _ _ _ hs; exact hs]

theorem overfillRise_keeps (h : Inner P) (i : Nat) (hs : P s) : P (overfillRise i s) :=
  stackChanged_keeps h.toQuiet _ (overfillTest_keeps h _ (modStack_keeps h.toQuiet _ _ hs))

theorem overfillFall_keeps (h : Quiet P) (i : Nat) (hs : P s) : P (overfillFall i s) :=
  stackChanged_keeps h _ (modStack_keeps h _ _ hs)

theorem levelCheck_keeps (h : Inner P) (i a b : Nat) (t : Tag) (r : Nat) (x : BinId) (hs : P s) :
    P (levelCheck i a b t r x s) := by
  unfold levelCheck; split <;> [exact hs; exact suspectCause_keeps h _ _ _ _ _ hs]

theorem reportAndHandOn_keeps (h : Quiet P) (i : Nat) (hs : P s) : P (reportAndHandOn i s) :=
  stackChanged_keeps h _ (topReport_keeps h _ hs)

/-- A set-down moves its bin from the pending list to the resting list without changing the sum (R4, R8). -/
theorem setDown_sound {k : StackRec} {b : BinId} (e : RestEntry) (hb : k.reserved b = true) (h : k.Sound) :
    ({ k with pend := k.pend.eraseP (PendEntry.isFor b), resting := k.resting ++ [e] } : StackRec).Sound := by
  refine ⟨?_, h.2⟩
  obtain ⟨x, hx, hp⟩ := List.any_eq_true.mp hb
  have h1 := List.length_eraseP_of_mem hx hp
  have h2 := List.length_pos_of_mem hx
  have h3 := h.1
  simp only [List.length_append, List.length_cons, List.length_nil]
  omega

theorem recordSet_keeps (h : Moves P) {i : Nat} (r n : Nat) {b : BinId} (t : Tag)
    (hb : (getStack s i).reserved b = true) (hs : P s) : P (recordSet i r n b t s) :=
  have hi := h.toInner
  reportAndHandOn_keeps hi.toQuiet _ (levelCheck_keeps hi _ _ _ _ _ _ (clearAccess_keeps hi.toQuiet _ _
    (modRobot_keeps hi.toQuiet _ (h.anyStack _ _ _ (setDown_sound _ hb) hs))))

theorem recordLift_keeps (h : Moves P) (i r n : Nat) (t : Tag) (e : RestEntry) (hs : P s) :
    P (recordLift i r n t e s) := by
  have hi := h.toInner
  have h1 : P (modRobot r (fun c => { c with heldBin := some e.bin })
      (modStack i (fun k => { k with resting := k.resting.dropLast }) s)) :=
    modRobot_keeps hi.toQuiet _ (h.anyStack _ _ _ (fun hk => hk.shrink rfl (by simp) (.refl _)) hs)
  exact levelCheck_keeps hi _ _ _ _ _ _ (clearAccess_keeps hi.toQuiet _ _
    (onMoved_keeps h1 fun _ => modRelay_keeps hi.toQuiet _ (fun _ => by constructor <;> rfl) h1))

/-! ## Hops -/

theorem assignTaker_keeps (h : Quiet P) (t : Tag) (r : Nat) (hs : P s) : P (assignTaker t r s) :=
  goOnIdle_keeps h _ (enterTake_keeps h _ _ (modRelay_keeps h t (fun _ => by constructor <;> rfl) hs))

theorem lendFromQueue_keeps (h : Quiet P) (t : Tag) (d r : Nat) (hs : P s) : P (lendFromQueue t d r s) :=
  assignTaker_keeps h _ _ (lend_keeps h _ _ (modQueue_keeps h _ _ hs))

theorem drawStandby_keeps (h : Quiet P) (t : Tag) (hs : P s) : P (drawStandby t s) := by
  refine onRelay_keeps hs fun r _ => ?_
  split
  · exact hs
  · split <;> [exact hs; exact lendFromQueue_keeps h _ _ _ hs]

theorem unassignTake_keeps (h : Quiet P) (t : Tag) (hs : P s) : P (unassignTake t s) :=
  onRelay_keeps hs fun _ _ => takerToAny_keeps h _ _ (enterTake_keeps h _ _
    (modRelay_keeps h t (fun _ => by constructor <;> rfl) hs))

theorem fillFromQueue_keeps (h : Quiet P) (n d : Nat) (hs : P s) : P (fillFromQueue n d s) := by
  induction n generalizing s with
  | zero => exact hs
  | succ n ih => unfold fillFromQueue; split <;> [exact ih (lendFromQueue_keeps h _ _ _ hs); exact hs]

theorem fillTake_keeps (h : Quiet P) (t : Tag) (hs : P s) : P (fillTake t s) := by
  refine onRelay_keeps hs fun r _ => ?_
  split
  · exact assignTaker_keeps h _ _ hs
  · exact drawStandby_keeps h _ (enterTake_keeps h _ _ hs)

theorem startHop_keeps (h : Quiet P) (t : Tag) (k : Nat) (g b : Option Nat) (hs : P s) : P (startHop t k g b s) := by
  have h1 : P (modRelay t (fun r => { r with
      hop := k, binding := b, refused := none, giveRefusals := 0, liftRefusals := 0, take := emptyTake
      give := { state := .done, robot := g, stepStack := none, timer := none } }) s) :=
    modRelay_keeps h t (fun _ => by constructor <;> rfl) hs
  unfold startHop; dsimp only
  split <;> [exact fillTake_keeps h _ (enterPlacing_keeps h _ h1); exact fillTake_keeps h _ h1]

theorem passOn_keeps (h : Inner P) (t : Tag) (hs : P s) : P (passOn t s) := by
  refine onRelay_keeps hs fun r _ => ?_
  split
  · exact settle_keeps h _ hs
  · split <;> [exact startHop_keeps h.toQuiet _ _ _ _ (h.toTail _ _ hs); exact endRelay_keeps h _ _ hs]

theorem giveArrived_keeps (h : Quiet P) (t : Tag) (i r : Nat) (hs : P s) : P (giveArrived t i r s) := by
  refine onRelay_keeps hs fun q _ => ?_
  split
  · dsimp only; split
    · exact hs
    · split
      · exact arbiter_keeps h _ (enterGive_keeps h _ _ (joinWaits_keeps h _ (by assumption) hs))
      · exact enterPlacing_keeps h _ (setBinding_keeps h _ _ (modRelay_keeps h t (fun _ => by constructor <;> rfl)
          (cancelReservation_keeps h _ _ hs)))
  · exact enterPlacing_keeps h _ hs

theorem giveRefusal_keeps (h : Inner P) (t : Tag) (i : Nat) (hs : P s) : P (giveRefusal t i s) := by
  refine onRelay_keeps hs fun q _ => ?_
  have h1 := setBinding_keeps h.toQuiet t none (modRelay_keeps h.toQuiet t (f := fun r => { r with refused := some i })
    (fun _ => by constructor <;> rfl) (cancelReservation_keeps h.toQuiet i q.bin hs))
  dsimp only; split
  · exact enterPlacing_keeps h.toQuiet _ h1
  · split
    · exact enterPlacing_keeps h.toQuiet _ (modRelay_keeps h.toQuiet t (fun _ => by constructor <;> rfl) h1)
    · exact endRelay_keeps h _ _ h1

theorem giveApproachRefused_keeps (h : Inner P) (t : Tag) (i : Nat) (hs : P s) : P (giveApproachRefused t i s) :=
  onRelay_keeps hs fun _ _ => by split <;> [exact giveRefusal_keeps h _ _ hs; exact enterPlacing_keeps h.toQuiet _ hs]

theorem giveSetRefused_keeps (h : Inner P) (t : Tag) (i r : Nat) (hs : P s) : P (giveSetRefused t i r s) :=
  giveRefusal_keeps h _ _ (releaseAccess_keeps h.toQuiet _ hs)

theorem releaseGiver_keeps (h : Inner P) (t : Tag) (r : Nat) (hs : P s) : P (releaseGiver t r s) :=
  releaseWithNotice_keeps h _ _ _ (modRelay_keeps h.toQuiet t (fun _ => by constructor <;> rfl) hs)

theorem giveSetDone_keeps (hm : Moves P) (t : Tag) (i r n : Nat) (hs : P s) : P (giveSetDone t i r n s) := by
  have h := hm.toInner
  refine onRelay_keeps hs fun q _ => ?_
  split
  · rename_i hb
    have h1 := enterGive_keeps h.toQuiet t .done (situationChanged_keeps h t false
      (recordSet_keeps hm r n t (Bool.and_eq_true_iff.mp hb).2 hs))
    refine onRelay_keeps h1 fun q _ => ?_
    split
    · exact h1
    · have h2 := releaseGiver_keeps h t r h1
      dsimp only; split <;> [exact takeJoin_keeps h.toQuiet _ _ _ h2; exact h2]
  · exact hs

theorem takeArrived_keeps (h : Quiet P) (t : Tag) (i : Nat) (hs : P s) : P (takeArrived t i s) := by
  refine onRelay_keeps hs fun q _ => ?_
  split
  · exact enterTake_keeps h _ _ hs
  · split
    · split <;> [exact takeJoin_keeps h _ _ _ hs; exact enterTake_keeps h _ _ hs]
    · exact goOnIdle_keeps h _ (enterTake_keeps h _ _ hs)

theorem takeApproachRefused_keeps (h : Inner P) (t : Tag) (r : Nat) (hs : P s) : P (takeApproachRefused t r s) :=
  drawStandby_keeps h.toQuiet _ (unassignTake_keeps h.toQuiet _ (releaseWithNotice_keeps h _ _ _ hs))

theorem hopLoad_keeps (h : Inner P) (t : Tag) (i : Nat) (c : Robot) (n : Nat) (hs : P s) : P (hopLoad t i c n s) := by
  refine onRelay_keeps hs fun q _ => ?_
  split
  · exact enterTake_keeps h.toQuiet _ _ (setFlag_keeps h.toQuiet _ _ hs)
  · exact enterTake_keeps h.toQuiet _ _ (modRelay_keeps h.toQuiet t (fun _ => by constructor <;> rfl) hs)
  · exact enterTake_keeps h.toQuiet _ _ hs
  · dsimp only; split
    · exact h.notify _ _ (enterTake_keeps h.toQuiet _ _ (setFlag_keeps h.toQuiet _ _ hs))
    · exact enterTake_keeps h.toQuiet _ _ (setFlag_keeps h.toQuiet _ _ hs)

theorem passOnIfDone_keeps (h : Inner P) (t : Tag) (hs : P s) : P (passOnIfDone t s) :=
  onRelay_keeps hs fun _ _ => by split <;> [exact passOn_keeps h _ hs; exact hs]

theorem takeLiftDone_keeps (hm : Moves P) (t : Tag) (i : Nat) (c : Robot) (n l : Nat) (hs : P s) :
    P (takeLiftDone t i c n l s) := by
  have h := hm.toInner
  unfold takeLiftDone; split
  · exact hs
  · split
    · exact passOnIfDone_keeps h _ (hopLoad_keeps h _ _ _ _ (situationChanged_keeps h _ _
        (reportAndHandOn_keeps h.toQuiet _ (recordLift_keeps hm _ _ _ _ _ hs))))
    · exact hs

theorem takeLiftRefused_keeps (h : Inner P) (t : Tag) (i r : Nat) (hs : P s) : P (takeLiftRefused t i r s) := by
  have h1 := releaseAccess_keeps h.toQuiet r hs
  refine onRelay_keeps h1 fun q _ => ?_
  split
  · exact h1
  · split
    · exact takeJoin_keeps h.toQuiet _ _ _ (modRelay_keeps h.toQuiet t (fun _ => by constructor <;> rfl) h1)
    · exact endRelay_keeps h _ _ h1

/-! ## The shuffler's reports -/

theorem digLiftDone_keeps (hm : Moves P) (p : Tag) (i : Nat) (c : Robot) (n l : Nat) (hs : P s) :
    P (digLiftDone p i c n l s) := by
  have h := hm.toInner
  unfold digLiftDone; split
  · exact hs
  · rename_i x _
    split
    · have h1 := recordLift_keeps hm i c.id n p x hs
      exact joinSomeTarget_keeps h _ (reportAndHandOn_keeps h.toQuiet _ (onMoved_keeps h1 fun q =>
        shuffleLoad_keeps h.toQuiet _ _ _ (situationChanged_keeps h _ _ (setFlag_keeps h.toQuiet _ _ (setCarried_keeps h.toQuiet _ _ h1)))))
    · exact hs

theorem digLiftRefused_keeps (h : Inner P) (p : Tag) (hs : P s) : P (digLiftRefused p s) := by
  refine onShuffle_keeps hs fun r sh robot => ?_
  have h1 := releaseAccess_keeps h.toQuiet robot hs
  have hrest : ∀ s, P s → P (onMoved sh.movedRelay settle (enterTake p .done (clearShuffle p
      (dropHold sh.source robot s)))) := fun s hs =>
    have h2 := enterTake_keeps h.toQuiet p .done (clearShuffle_keeps h.toQuiet p (dropHold_keeps h.toQuiet sh.source robot hs))
    onMoved_keeps h2 fun _ => settle_keeps h _ h2
  have h3 : P (match sh.target with
      | some j => cancelReservation j sh.movedBin (releaseAccess robot s)
      | none => releaseAccess robot s) := by
    split <;> [exact cancelReservation_keeps h.toQuiet _ _ h1; exact h1]
  have h4 := hrest _ h3
  dsimp only; split
  · exact settle_keeps h _ h4
  · split
    · exact takeJoin_keeps h.toQuiet _ _ _ (modRelay_keeps h.toQuiet p (fun _ => by constructor <;> rfl) h4)
    · exact endRelay_keeps h _ _ h4

theorem resumeTaker_keeps (h : Quiet P) (q : Tag) (i : Nat) (hs : P s) : P (resumeTaker q i s) :=
  onRelay_keeps hs fun _ _ => by split <;> [exact takeJoin_keeps h _ _ _ hs; exact hs]

theorem setOnTarget_keeps (hm : Moves P) (p : Tag) {i : Nat} {sh : Shuffle} (r n : Nat)
    (hb : (getStack s i).reserved sh.movedBin = true) (hs : P s) : P (setOnTarget p i sh r n s) := by
  have h := hm.toInner
  have h1 := recordSet_keeps hm r n p hb hs
  refine returnShuffler_keeps h _ ?_
  have h2 : ∀ m, P (dropHold sh.source r (notify m (onMoved sh.movedRelay (fun q s =>
      situationChanged q false (modRelay q (fun r => { r with carried := false, binding := some i }) s))
        (recordSet i r n sh.movedBin p s)))) := fun m =>
    dropHold_keeps h.toQuiet _ _ (h.notify _ _ (onMoved_keeps h1 fun _ =>
      situationChanged_keeps h _ _ (modRelay_keeps h.toQuiet _ (fun _ => by constructor <;> rfl) h1)))
  exact onMoved_keeps (h2 _) fun _ => moveTaker_keeps h.toQuiet _ _ _ (settleMoved_keeps h _ (h2 _))

theorem setOnSource_keeps (hm : Moves P) (p : Tag) {i : Nat} {sh : Shuffle} (r n : Nat)
    (hb : (getStack s i).reserved sh.movedBin = true) (hs : P s) : P (setOnSource p i sh r n s) := by
  have h := hm.toInner
  have h1 := recordSet_keeps hm r n p hb hs
  have h2 := onMoved_keeps (q := sh.movedRelay) (f := fun q s => situationChanged q false (setCarried (some q) false s))
    h1 fun _ => situationChanged_keeps h _ _ (setCarried_keeps h.toQuiet _ _ h1)
  exact returnShuffler_keeps h _ (onMoved_keeps h2 fun _ => resumeTaker_keeps h.toQuiet _ _ (settleMoved_keeps h _ h2))

theorem digSetDone_keeps (hm : Moves P) (p : Tag) (i n : Nat) (hs : P s) : P (digSetDone p i n s) := by
  have h := hm.toInner
  refine onShuffle_keeps hs fun r sh robot => ?_
  split
  · rename_i hb
    have hb := (Bool.and_eq_true_iff.mp hb).2
    split <;> [exact setOnSource_keeps hm _ _ _ hb hs; exact setOnTarget_keeps hm _ _ _ hb hs]
  · exact hs

theorem digSetRefused_keeps (h : Inner P) (p : Tag) (i : Nat) (hs : P s) : P (digSetRefused p i s) := by
  refine onShuffle_keeps hs fun r sh robot => ?_
  split <;> [exact failShuffle_keeps h _ _ hs; exact setback_keeps h _ _ (releaseAccess_keeps h.toQuiet _ hs)]

/-! ## Faults -/

theorem faultRobot_keeps (h : Inner P) (r : Nat) (p : Option Phase) (hs : P s) : P (faultRobot r p s) := by
  unfold faultRobot; split
  · exact hs
  · rename_i c _
    dsimp only
    refine h.notify _ _ ?_
    have h1 := removeStepFrame_keeps h.toQuiet r (modRobot_keeps h.toQuiet r (f := fun c => { c with state := .faulted, step := none }) hs)
    have h2 : P (match c.accessHeld with
        | some i => loseAccess i r (faultCause p) (removeStepFrame r (modRobot r (fun c => { c with
            state := .faulted, step := none }) s))
        | none => removeStepFrame r (modRobot r (fun c => { c with state := .faulted, step := none }) s)) := by
      split <;> [exact loseAccess_keeps h _ _ _ h1; exact h1]
    have h3 := dropWaits_keeps h.toQuiet (fun e => e.robot == r) h2
    split
    · exact modRobot_keeps h.toQuiet _ (modQueue_keeps h.toQuiet _ _ h3)
    · exact h3

theorem takerLost_keeps (h : Inner P) (t : Tag) (r : Nat) (hs : P s) : P (takerLost t r s) :=
  settle_keeps h _ (drawStandby_keeps h.toQuiet _ (unbind_keeps h.toQuiet _ (unassignTake_keeps h.toQuiet _ hs)))

theorem shufflerLost_keeps (h : Inner P) (p : Tag) (hs : P s) : P (shufflerLost p s) := by
  refine onShuffle_keeps hs fun r sh robot => ?_
  have h1 := unassignTake_keeps h.toQuiet p (clearShuffle_keeps h.toQuiet p hs)
  refine settle_keeps h _ (drawStandby_keeps h.toQuiet _ (unbind_keeps h.toQuiet _ ?_))
  have h2 : P (match sh.target with
      | some j => cancelReservation j sh.movedBin (unassignTake p (clearShuffle p s))
      | none => unassignTake p (clearShuffle p s)) := by
    split <;> [exact cancelReservation_keeps h.toQuiet _ _ h1; exact h1]
  have h3 : ∀ s, P s → P (if sh.returning = true then
      if sh.movedRelay.isNone = true then cancelReservation sh.source sh.movedBin s else s
      else dropHold sh.source robot s) := by
    intro s hs
    split
    · split <;> [exact cancelReservation_keeps h.toQuiet _ _ hs; exact hs]
    · exact dropHold_keeps h.toQuiet _ _ hs
  have h4 := setCarried_keeps h.toQuiet sh.movedRelay false (h3 _ h2)
  exact onMoved_keeps h4 fun _ => by split <;> [exact endRelay_keeps h _ _ h4; exact settleMoved_keeps h _ h4]

theorem laterTakerLost_keeps (h : Quiet P) (t : Tag) (r : Nat) (hs : P s) : P (laterTakerLost t r s) :=
  unbind_keeps h _ (modRelay_keeps h t (fun _ => by constructor <;> rfl) hs)

theorem doneTakerLost_keeps (h : Quiet P) (t : Tag) (r : Nat) (hs : P s) : P (doneTakerLost t r s) :=
  onRelay_keeps hs fun _ _ => by split <;> [exact hs; exact takerToAny_keeps h _ _ hs]

theorem faultOnRelay_keeps (h : Inner P) (t : Tag) (r : Nat) (hs : P s) : P (faultOnRelay t r s) := by
  refine onRelay_keeps hs fun q _ => ?_
  split
  · split
    · exact settle_keeps h _ hs
    · dsimp only
      split <;> [exact endRelay_keeps h _ _ (closeSide_keeps h.toQuiet _ _ hs); exact endRelay_keeps h _ _ hs]
  · split
    · split
      all_goals first
        | exact takerLost_keeps h _ _ hs
        | exact endRelay_keeps h _ _ hs
        | exact shufflerLost_keeps h _ hs
        | exact settle_keeps h _ (doneTakerLost_keeps h.toQuiet _ _ hs)
    · exact laterTakerLost_keeps h.toQuiet _ _ hs

theorem applyFault_keeps (h : Inner P) (r : Nat) (hs : P s) : P (applyFault r s) := by
  unfold applyFault; split
  · exact hs
  · split
    · exact hs
    · have h1 := faultRobot_keeps h r none hs
      dsimp only; split
      · exact faultOnRelay_keeps h _ _ h1
      · exact h1
      · exact h1

end Sys2Proof.Machine
end

