-- ==== Sys2Proof/Laws/Port.lean ====
section
/-!
SUPPORT. What the Exchange Port's writes leave alone. `Port P` says that a property P of states survives one exchange
access and the port's own updates; the appending of notices and the ending of slots then keep P. The accesses need to keep
it only outside EXCHANGE_FAULT (R172).
-/

namespace Sys2Proof.Machine

/-- A property that the Exchange Port's single updates keep. -/
structure Port (P : State → Prop) : Prop where
  count : ∀ s, s.device ≠ .exchangeFault → P s → P (countAccess s)
  fault : ∀ s, s.device ≠ .exchangeFault → P s → P (enterExchangeFault s)
  put : ∀ s a bs, s.device ≠ .exchangeFault → P s → P { s with mem := Memory.put s.mem a bs }
  landed : ∀ s a bs ls, s.device ≠ .exchangeFault → P s → P { s with mem := Memory.putLanded s.mem a bs ls }
  takeIndex : ∀ s n, s.device ≠ .exchangeFault → P s →
    P { s with kept := s.kept.map fun k => if n < k.noticeCount then { k with takeIndex := n } else k }
  advance : ∀ s k, s.device ≠ .exchangeFault → s.kept = some k → P s →
    P { s with kept := some { k with writeIndex := (k.writeIndex + 1) % k.noticeCount } }
  gap : ∀ s v, P s → P { s with gap := v }
  event : ∀ e s, P s → P (setEvent e s)

variable {P : State → Prop} {s : State}

theorem not_faulted (h : faulted s ≠ true) : s.device ≠ .exchangeFault := by simpa [faulted] using h

theorem readExchange_port (h : Port P) (a n : Nat) (hs : P s) : P (readExchange a n s).2 := by
  unfold readExchange; split
  · exact hs
  · have hd := not_faulted ‹_›
    split <;> [exact h.fault _ hd (h.count _ hd hs); exact h.count _ hd hs]

theorem writeExchange_port (h : Port P) (a : Nat) (bs : List Byte) (hs : P s) : P (writeExchange a bs s) := by
  unfold writeExchange; split
  · exact hs
  · have hd := not_faulted ‹_›
    split
    · exact h.fault _ hd (h.landed _ _ _ _ hd (h.count _ hd hs))
    · exact h.put _ _ _ hd (h.count _ hd hs)

/-- A write leaves the kept header values. -/
@[simp] theorem writeExchange_kept (a : Nat) (bs : List Byte) (s : State) : (writeExchange a bs s).kept = s.kept := by
  unfold writeExchange; split <;> [rfl; (split <;> rfl)]

/-- A read that answers was made outside EXCHANGE_FAULT and only lets the host's writes land. -/
theorem readExchange_some {a n : Nat} {bs : List Byte} {s' : State} (hr : readExchange a n s = (some bs, s')) :
    s.device ≠ .exchangeFault ∧ s' = countAccess s ∧ bs = Memory.bytes (countAccess s).mem a n := by
  unfold readExchange at hr
  split at hr
  · cases hr
  · rename_i hf
    split at hr
    · cases hr
    · cases hr; exact ⟨not_faulted hf, rfl, rfl⟩

theorem readTakeIndex_port (h : Port P) (hs : P s) : P (readTakeIndex s) := by
  have h1 := readExchange_port h (s.exchangeBase.toNat + 30) 2 hs
  unfold readTakeIndex; split
  · rename_i heq
    have h2 := readExchange_some heq
    rw [heq] at h1
    exact h.takeIndex _ _ (by rw [h2.2.1]; exact h2.1) h1
  · rename_i heq; rw [heq] at h1; exact h1

theorem putNotice_port (h : Port P) (n : Notice) (hs : P s) : P (putNotice n s) := by
  unfold putNotice; split
  · exact hs
  · rename_i k hk
    have h1 := writeExchange_port h (k.ringBase + Config.noticeBytes * k.writeIndex) n.bytes hs
    have hk1 := (writeExchange_kept (k.ringBase + Config.noticeBytes * k.writeIndex) n.bytes s).trans hk
    generalize writeExchange (k.ringBase + Config.noticeBytes * k.writeIndex) n.bytes s = s1 at h1 hk1 ⊢
    dsimp only
    split
    · exact h1
    · have h2 := writeExchange_port h (s.exchangeBase.toNat + 28) (le16 ((k.writeIndex + 1) % k.noticeCount))
        (h.advance _ k (not_faulted ‹_›) hk1 h1)
      split <;> [exact h2; exact h.event _ _ h2]

theorem putGap_port (h : Port P) (hs : P s) : P (putGap s) := by
  unfold putGap; split
  · exact hs
  · split <;> [exact hs; exact putNotice_port h _ (h.gap _ _ hs)]

theorem notify_port (h : Port P) (n : Notice) (hs : P s) : P (notify n s) := by
  unfold notify; split
  · exact hs
  · have h1 : P (if ringFull s = true then readTakeIndex s else s) := by
      split <;> [exact readTakeIndex_port h hs; exact hs]
    generalize (if ringFull s = true then readTakeIndex s else s) = s1 at h1 ⊢
    dsimp only
    split
    · exact h1
    · have h2 := putGap_port h h1
      split
      · exact h2
      · split <;> [exact h.event _ _ (h.gap _ _ h2); exact putNotice_port h _ h2]

theorem writeOutcome_port (h : Port P) (slot : Nat) (o : Outcome) (hs : P s) : P (writeOutcome slot o s) := by
  unfold writeOutcome; split
  · exact hs
  · exact writeExchange_port h _ _ (writeExchange_port h _ _ hs)

theorem endRequest_port (h : Port P) (slot : Nat) (t : Tag) (c : Code) (hs : P s) : P (endRequest slot t c s) := by
  unfold endRequest; split
  · exact hs
  · have h1 := fun o => writeOutcome_port h slot o hs
    dsimp only
    split <;> [exact h1 _; exact notify_port h _ (h1 _)]

theorem endRelaySlot_port (h : Port P) (slot : Nat) (t : Tag) (b : BinId) (o : Outcome) (hs : P s) :
    P (endRelaySlot slot t b o s) := by
  unfold endRelaySlot; split
  · exact hs
  · split
    · exact hs
    · rename_i k _
      have h1 := readExchange_port h (k.slotAddr slot) 1 hs
      split
      · rename_i heq; rw [heq] at h1; exact h1
      · rename_i heq; rw [heq] at h1
        dsimp only
        split
        · split <;> [exact writeOutcome_port h _ _ h1; exact notify_port h _ (writeOutcome_port h _ _ h1)]
        · split <;> [exact h1; exact notify_port h _ h1]

theorem writeImage_port (h : Port P) (hs : P s) : P (writeImage s) := by
  unfold writeImage; split <;> [exact hs; exact writeExchange_port h _ _ hs]

end Sys2Proof.Machine
end

