-- ==== Sys2Proof/Laws/KeepsCommands.lean ====
section
/-!
SUPPORT. What the commands leave alone. `Hears P` adds to `Moves P` the updates that the fleet link
makes, and the commands of the fleet link and the clocks then keep P (`exec_hop_keeps`). `Outer P` adds those that the
Sense Unit, the requests, the registers and the tick make; every command then keeps P (`exec_keeps`), and so does every
step (`step_keeps`).
-/

namespace Sys2Proof.Machine

set_option Elab.async false

/-- A property that the updates of the fleet link keep. -/
structure Hears (P : State → Prop) : Prop extends Moves P where
  anyRobot : ∀ s r f, (∀ c, Robot.id (f c) = c.id) → P s → P (modRobot r f s)
  linkState : ∀ s b n d, P s → P { s with linkUp := b, silence := n, silenceDue := d }
  rx : ∀ s v, P s → P { s with rx := v }
  tx : ∀ s v, P s → P { s with tx := v }
  event : ∀ e s, P s → P (setEvent e s)

/-- A property that every update of a command keeps, but for the resets and the bus. -/
structure Outer (P : State → Prop) : Prop extends Hears P where
  hold : ∀ s b, P s → P { s with hold := b }
  lines : ∀ s v, v.length = s.lines.length → P s → P { s with lines := v }
  image : ∀ s, P s → P (writeImage s)
  tuning : ∀ s v, P s → P { s with tuning := v }
  addRobot : ∀ s d, s.robots.length < Config.robotMax → getRobot s d.robot = none → P s →
    P { s with robots := insertRobot (newRobot d) s.robots }
  dropRobots : ∀ s (p : Robot → Bool), P s → P { s with robots := s.robots.filter p }
  addRelay : ∀ s (o : RelayOrder) slot, s.relays.length < Config.relayMax → getRelay s o.tag = none →
    slotActive s slot = false → P s → P { s with relays := s.relays ++ [o.record slot] }
  endRequest : ∀ s slot tag c, P s → P (endRequest slot tag c s)
  read : ∀ s a n, P s → P (readExchange a n s).2
  write : ∀ s a bs, P s → P (writeExchange a bs s)
  takeIndex : ∀ s, P s → P (readTakeIndex s)
  gap : ∀ s, P s → P (putGap s)
  cursor : ∀ s v, P s → P { s with cursor := v }
  pollCount : ∀ s v, P s → P { s with pollCount := v }
  pollDue : ∀ s v, P s → P { s with pollDue := v }
  device : ∀ s d r, s.device ≠ .exchangeFault → d ≠ .exchangeFault → (d = .idle → s.device = .idle) → P s →
    P { s with device := d, run := r }
  started : ∀ s (h : Header), s.device = .idle → h.passes s.exchangeBase.toNat = true → P s →
    P { s with kept := some h.kept, tickPeriod := tickPeriodOf h.tickRate, cursor := some (.before h.firstSlot)
               pollCount := 0, pollDue := false, gap := none }
  clearMode : ∀ s b, P s → P { s with clearMode := b }
  readEvents : ∀ s, P s → P { s with readData := s.events, events := if s.clearMode then s.events else 0#32 }
  writeEvents : ∀ s v, P s → P (writeEvents v s)
  writeMask : ∀ s v, P s → P (writeMask v s)
  writeBase : ∀ s v, P s → P (writeBase v s)
  tick : ∀ s, P s → P (advanceTick s)

/-- A property that the resets keep. -/
structure Resets (P : State → Prop) : Prop where
  powerOn : ∀ s, P s → P (powerOn s)
  soft : ∀ s, P s → P (softReset s)

variable {P : State → Prop} {s : State}

/-! ## Timers -/

theorem modTimer_keeps (h : Inner P) (t : Tag) (side : Side) (f : Timer → Timer) (hs : P s) :
    P (modTimer t side f s) :=
  modRelay_keeps h.toQuiet t (fun _ => by cases side <;> constructor <;> rfl) hs

theorem actLate_keeps (h : Inner P) (t : Tag) (side : Side) (p : Phase) (hs : P s) : P (actLate t side p s) :=
  onRelay_keeps hs fun _ _ => h.notify _ _ (setFlag_keeps h.toQuiet _ _ hs)

theorem takeLimit_keeps (h : Inner P) (t : Tag) (side : Side) (p : Phase) {f : State → State}
    (hf : ∀ s, P s → P (f s)) (hs : P s) : P (takeLimit t side p f s) := by
  unfold takeLimit; split <;> [exact actDeferred_keeps h (hf _ (modTimer_keeps h _ _ _ hs)); exact hs]

theorem limitEnds_keeps (h : Inner P) (t : Tag) (c : Code) (hs : P s) : P (limitEnds t c s) :=
  onRelay_keeps hs fun _ _ => by split <;> [exact hs; exact endRelay_keeps h _ _ hs]

theorem limitFaults_keeps (h : Inner P) (t : Tag) (side : Side) (p : Phase) (c : Code) (hs : P s) :
    P (limitFaults t side p c s) := by
  refine onRelay_keeps hs fun _ _ => ?_
  split
  · exact settle_keeps h _ (closeSide_keeps h.toQuiet _ _ (faultRobot_keeps h _ _ (decideEnd_keeps h _ _ hs)))
  · exact hs

theorem shuffleWaitLimit_keeps (h : Inner P) (t : Tag) (hs : P s) : P (shuffleWaitLimit t s) := by
  refine onShuffle_keeps hs fun r sh robot => ?_
  have h1 := dropWaits_keeps h.toQuiet (fun e => e.robot == robot) hs
  dsimp only; split <;> [exact setback_keeps h _ _ h1; exact failShuffle_keeps h _ _ h1]

theorem shuffleStepLimit_keeps (h : Inner P) (t : Tag) (p : Phase) (hs : P s) : P (shuffleStepLimit t p s) := by
  refine onShuffle_keeps hs fun r sh robot => shufflerLost_keeps h _ (faultRobot_keeps h _ _ ?_)
  split <;> [exact hs; exact onMoved_keeps hs fun _ => decideEnd_keeps h _ _ hs]

theorem takeApproachOver_keeps (h : Inner P) (t : Tag) (hs : P s) : P (takeApproachOver t s) := by
  refine onRelay_keeps hs fun _ _ => ?_
  split
  · exact settle_keeps h _ (drawStandby_keeps h.toQuiet _ (unbind_keeps h.toQuiet _
      (faultRobot_keeps h _ _ (unassignTake_keeps h.toQuiet _ hs))))
  · exact hs

theorem linkGoesDown_keeps (h : Hears P) (hs : P s) : P (linkGoesDown s) :=
  h.notify _ _ (h.event _ _ (h.tx _ _ (h.linkState s false s.silence s.silenceDue hs)))

theorem linkComesUp_keeps (h : Hears P) (hs : P s) : P (linkComesUp s) :=
  h.notify _ _ (h.event _ _ (h.linkState s true 0 false hs))

theorem linkHears_keeps (h : Hears P) (hs : P s) : P (linkHears s) := by
  unfold linkHears; split <;> [exact hs; exact linkComesUp_keeps h hs]

/-! ## Reports -/

theorem writeCell_keeps (h : Hears P) (r : Nat) (p : Report) (hs : P s) : P (writeCell r p s) := by
  unfold writeCell; split <;> [exact h.anyRobot _ _ _ (fun _ => rfl) hs; exact hs]

theorem giveReport_keeps (hm : Moves P) (t : Tag) (st : GiveState) (i r : Nat) (p : Report) (hs : P s) :
    P (giveReport t st i r p s) := by
  have h := hm.toInner
  match st, p with
  | .approach, .arrived _ _ => exact giveArrived_keeps h.toQuiet _ _ _ hs
  | .approach, .refused => exact giveApproachRefused_keeps h _ _ hs
  | .setting, .setDone _ => exact giveSetDone_keeps hm _ _ _ _ hs
  | .setting, .refused => exact giveSetRefused_keeps h _ _ _ hs
  | .placing, _ | .wait, _ | .done, _ => exact hs
  | .approach, .setDone _ | .approach, .liftDone _ _ => exact hs
  | .setting, .arrived _ _ | .setting, .liftDone _ _ => exact hs

theorem takeReport_keeps (hm : Moves P) (t : Tag) (st : TakeState) (i : Nat) (c : Robot) (p : Report) (hs : P s) :
    P (takeReport t st i c p s) := by
  have h := hm.toInner
  match st, p with
  | .approach, .arrived _ _ => exact takeArrived_keeps h.toQuiet _ _ hs
  | .approach, .refused => exact takeApproachRefused_keeps h _ _ hs
  | .lifting, .liftDone _ _ => exact takeLiftDone_keeps hm _ _ _ _ _ hs
  | .lifting, .refused => exact takeLiftRefused_keeps h _ _ _ hs
  | .shufLift, .liftDone _ _ => exact digLiftDone_keeps hm _ _ _ _ _ hs
  | .shufLift, .refused => exact digLiftRefused_keeps h _ hs
  | .shufSet, .setDone _ => exact digSetDone_keeps hm _ _ _ hs
  | .shufSet, .refused => exact digSetRefused_keeps h _ _ hs
  | .unassigned, _ | .idle, _ | .ready, _ | .wait, _ | .buried, _ | .query, _ | .shufWait, _ | .done, _ => exact hs
  | .approach, .setDone _ | .approach, .liftDone _ _ => exact hs
  | .lifting, .arrived _ _ | .lifting, .setDone _ => exact hs
  | .shufLift, .arrived _ _ | .shufLift, .setDone _ => exact hs
  | .shufSet, .arrived _ _ | .shufSet, .liftDone _ _ => exact hs

theorem sideReport_keeps (h : Moves P) (t : Tag) (c : Robot) (p : Report) (hs : P s) : P (sideReport t c p s) := by
  refine onRelay_keeps hs fun _ _ => ?_
  split
  · split <;> [exact giveReport_keeps h _ _ _ _ _ (closeSide_keeps h.toQuiet _ _ hs); exact hs]
  · split
    · split <;> [exact takeReport_keeps h _ _ _ _ _ (closeSide_keeps h.toQuiet _ _ hs); exact hs]
    · exact hs

theorem applyReport_keeps (ho : Hears P) (r : Nat) (q : Byte) (p : Report) (hs : P s) : P (applyReport r q p s) := by
  have h := ho.toInner
  unfold applyReport; split
  · exact hs
  · split
    · have h1 := writeCell_keeps ho r p (closeStep_keeps h.toQuiet r hs)
      dsimp only; split
      · exact actDeferred_keeps h (settle_keeps h _ (sideReport_keeps ho.toMoves _ _ _ h1))
      · exact h1
      · exact h1
    · exact hs

theorem applyPosition_keeps (h : Hears P) (r : Nat) (x y : Byte) (hs : P s) : P (applyPosition r x y s) :=
  h.anyRobot _ _ _ (fun _ => by split <;> rfl) hs

theorem takeFrame_keeps (h : Hears P) (f : InFrame) (hs : P s) : P (takeFrame s f) := by
  have h1 := linkHears_keeps h hs
  unfold takeFrame; dsimp only; split
  · exact applyReport_keeps h _ _ _ h1
  · exact applyPosition_keeps h _ _ _ h1
  · exact actDeferred_keeps h.toInner (applyFault_keeps h.toInner _ h1)
  · exact h.linkState _ _ _ _ h1

theorem takeBytes_keeps (h : Hears P) (bs : List Byte) (hs : P s) : P (takeBytes bs s) :=
  foldl_keeps (fun _ _ hs => takeFrame_keeps h _ hs) _ (h.rx _ _ hs)

/-! ## Lines and hold -/

theorem modLine_keeps (h : Outer P) (n : Nat) (f : Line → Line) (hs : P s) : P (modLine n f s) :=
  h.lines _ _ (List.length_modify ..) hs

theorem holdOn_keeps (h : Outer P) (c : HoldCause) (hs : P s) : P (holdOn c s) :=
  h.notify _ _ (h.event _ _ (h.tx _ _ (h.hold _ _ hs)))

theorem holdOff_keeps (h : Outer P) (hs : P s) : P (holdOff s) := h.notify _ _ (h.event _ _ (h.hold _ _ hs))

theorem makeGateTest_keeps (h : Outer P) (hs : P s) : P (makeGateTest s) := by
  unfold makeGateTest; split <;> [exact holdOn_keeps h _ hs; exact hs]

theorem writeHold_keeps (h : Outer P) (hs : P s) : P (writeHold s) := by
  unfold writeHold; split <;> [exact hs; exact holdOn_keeps h _ hs]

theorem writeResume_keeps (h : Outer P) (hs : P s) : P (writeResume s) := by
  unfold writeResume; split <;> [exact hs; exact holdOff_keeps h hs]

theorem lineActs_keeps (h : Outer P) (f : LineFn) (b : Bool) (hs : P s) : P (lineActs f b s) := by
  unfold lineActs; split
  · exact hs
  · split <;> [exact overfillRise_keeps h.toInner _ hs; exact overfillFall_keeps h.toQuiet _ hs]
  · exact makeGateTest_keeps h hs

theorem debounced_keeps (h : Outer P) (n : Nat) (b : Bool) (hs : P s) : P (debounced n b s) := by
  have h1 := h.image _ (modLine_keeps h n (fun l => { l with level := b, candidate := none }) hs)
  unfold debounced; dsimp only
  refine lineActs_keeps h _ _ ?_
  split <;> [exact h.notify _ _ h1; exact h1]

theorem rawChanged_keeps (h : Outer P) (n : Nat) (b : Bool) (hs : P s) : P (rawChanged n b s) := by
  have h1 := modLine_keeps h n (fun l => { l with raw := b }) hs
  unfold rawChanged; dsimp only
  split
  · exact hs
  split
  · exact h1
  split
  · exact modLine_keeps h _ _ h1
  split
  · exact debounced_keeps h _ _ h1
  · exact modLine_keeps h _ _ h1

theorem debounceExpired_keeps (h : Outer P) (n : Nat) (hs : P s) : P (debounceExpired n s) := by
  unfold debounceExpired; split
  · split
    · exact modLine_keeps h _ _ (debounced_keeps h _ _ (modLine_keeps h _ _ hs))
    · exact hs
  · exact hs

theorem letGoLine_keeps (h : Outer P) (e : LineEntry) (hs : P s) : P (letGoLine s e) := by
  unfold letGoLine; split
  · exact hs
  · have h1 := fun i => h.anyStack s i (fun k => { k with senseLine := none }) id hs
    dsimp only; split <;> [exact overfillFall_keeps h.toQuiet _ (h1 _); exact h1 _]

theorem takeLine_keeps (h : Outer P) (e : LineEntry) (hs : P s) : P (takeLine s e) := by
  unfold takeLine; split
  · have h1 := fun i => h.anyStack s i (fun k => { k with senseLine := some e.line }) id hs
    dsimp only; split <;> [exact overfillRise_keeps h.toInner _ (h1 _); exact h1 _]
  · exact hs
  · exact hs

theorem applyLines_keeps (h : Outer P) (es : List LineEntry) (hs : P s) : P (applyLines es s) := by
  have h1 := foldl_keeps (fun _ e hs => letGoLine_keeps h e hs) (changedEntries s es) hs
  have h2 := foldl_keeps (f := settleLine) (fun _ e hs => modLine_keeps h _ _ hs) (changedEntries s es) h1
  have h3 := makeGateTest_keeps h (foldl_keeps (fun _ e hs => takeLine_keeps h e hs) (changedEntries s es) h2)
  unfold applyLines; dsimp only; split <;> [exact h3; exact h.image _ h3]

/-! ## Requests -/

theorem declareStack_keeps (hm : Moves P) (d : DeclareStack) (hs : P s) : P (declareStack d s) :=
  have h := hm.toInner
  stackChanged_keeps h.toQuiet _ (overfillTest_keeps h _ (hm.anyStack _ _ _ (fun _ => ⟨by simp, by simp, by simp⟩) hs))

theorem requestDeclareStack_keeps (h : Moves P) (b : List Byte) (hs : P s) : P (requestDeclareStack b s).2 := by
  unfold requestDeclareStack; split
  · exact hs
  · repeat' split
    all_goals first | exact hs | exact declareStack_keeps h _ hs

theorem requestDeclareRobot_keeps (h : Outer P) (b : List Byte) (hs : P s) : P (requestDeclareRobot b s).2 := by
  unfold requestDeclareRobot; split
  · exact hs
  · split
    · split <;> [exact hs; exact h.anyRobot _ _ _ (fun _ => rfl) hs]
    · split <;> [exact h.addRobot _ _ ‹_› ‹_› hs; exact hs]

theorem requestRetire_keeps (h : Outer P) (b : List Byte) (hs : P s) : P (requestRetire b s).2 := by
  unfold requestRetire; split
  · exact hs
  · repeat' split
    all_goals first | exact hs | exact stackChanged_keeps h.toQuiet _ (h.anyStack _ _ _ id hs)
  · repeat' split
    all_goals first | exact hs | exact removeUnsent_keeps h.toQuiet _ (h.dropRobots _ _ hs)

theorem requestStandby_keeps (h : Inner P) (b : List Byte) (hs : P s) : P (requestStandby b s).2 := by
  unfold requestStandby; split
  · exact hs
  · split
    · exact hs
    · split
      · split
        all_goals first
          | exact hs
          | exact fillFromQueue_keeps h.toQuiet _ _ (modQueue_keeps h.toQuiet _ _ (modRobot_keeps h.toQuiet _ hs))
      · split
        · exact modRobot_keeps h.toQuiet _ (modQueue_keeps h.toQuiet _ _ hs)
        · exact hs

theorem requestTune_keeps (h : Outer P) (b : List Byte) (hs : P s) : P (requestTune b s).2 := by
  unfold requestTune; split <;> [exact hs; exact h.tuning _ _ hs]

theorem requestLines_keeps (h : Outer P) (b : List Byte) (hs : P s) : P (requestLines b s).2 := by
  unfold requestLines; split
  · exact hs
  · split <;> [exact applyLines_keeps h _ hs; exact hs]

theorem seed_keeps (hm : Moves P) {i : Nat} {bins : List BinId} (hp : (getStack s i).pend = [])
    (hl : bins.length ≤ (getStack s i).capacity) (hs : P s) : P (seed i bins s) := by
  have h := hm.toInner
  unfold seed; dsimp only
  refine stackChanged_keeps h.toQuiet _ (topReport_keeps h.toQuiet _ ?_)
  have h1 : ∀ a b : List Tag, P (b.foldl (fun s t => endRelay t .stackLost s) (a.foldl (fun s t =>
      situationChanged t false s) (modStack i (fun k => { k with
        resting := bins.map (seedEntry (getStack s i).resting) }) s))) := fun a b =>
    foldl_keeps (fun _ _ hs => endRelay_keeps h _ _ hs) _
      (foldl_keeps (fun _ _ hs => situationChanged_keeps h _ _ hs) _
        (hm.anyStack _ _ _ (fun hk => ⟨by simpa [hp] using hl, hk.2⟩) hs))
  split
  · split
    · exact enterSuspect_keeps h _ _ _ _ _ ‹_› (h1 _ _)
    · exact h.notify _ _ (h1 _ _)
  · exact hm.anyStack _ _ _ id (h1 _ _)

theorem requestSeed_keeps (h : Moves P) (b : List Byte) (hs : P s) : P (requestSeed b s).2 := by
  unfold requestSeed; split
  · exact hs
  · repeat' split
    all_goals first | exact hs | skip
    rename_i _ hl _ hp _
    rw [Bool.or_eq_true, not_or, Bool.not_eq_true', Bool.not_eq_false, List.isEmpty_iff] at hp
    exact seed_keeps h hp.2 (by omega) hs

theorem adoptShuffle_keeps (h : Quiet P) (b : BinId) (t : Tag) (d : Nat) (hs : P s) : P (adoptShuffle b t d s) :=
  have h1 := h.relays s (Relay.adopt b t d) (fun _ => by constructor <;> rfl) hs
  h.stackRecs _ (fun k => { k with pend := k.pend.map (PendEntry.adopt b (shufflersOf s b) t d) })
    (fun _ => .shrink rfl (by simp) (.refl _)) h1

theorem claimOrigin_keeps (h : Moves P) (o : RelayOrder) (hs : P s) : P (claimOrigin o s) := by
  unfold claimOrigin; split
  · exact modRobot_keeps h.toQuiet _ (lend_keeps h.toQuiet _ _ hs)
  · exact adoptShuffle_keeps h.toQuiet _ _ _ (h.anyStack _ _ _ (fun hk => hk.shrink rfl (by simp) (.refl _)) hs)

theorem intake_keeps (h : Outer P) (o : RelayOrder) (slot : Nat) (h1 : s.relays.length < Config.relayMax)
    (h2 : getRelay s o.tag = none) (h3 : slotActive s slot = false) (hs : P s) : P (intake o slot s) := by
  have h4 := situationChanged_keeps h.toInner o.tag false
    (foldl_keeps (f := fun s r => lend r o.tag s) (fun _ _ hs => lend_keeps h.toQuiet _ _ hs) (o.takers.filterMap id)
      (claimOrigin_keeps h.toMoves o (h.addRelay s o slot h1 h2 h3 hs)))
  unfold intake; dsimp only; split
  · exact startHop_keeps h.toQuiet _ _ _ _ h4
  · exact startHop_keeps h.toQuiet _ _ _ _ h4

/-- An order that is not refused meets a table with room and no relay of its tag (R84, R88). -/
theorem refusal_none {o : RelayOrder} (hr : o.refusal s = none) :
    s.relays.length < Config.relayMax ∧ getRelay s o.tag = none := by
  unfold RelayOrder.refusal at hr
  repeat' split at hr
  all_goals first
    | cases hr
    | skip
  all_goals exact ⟨by omega, by rename_i h6 _ _; simpa using h6⟩

theorem requestRelay_keeps (h : Outer P) (slot : Nat) (tag : Tag) (b : List Byte) (h3 : slotActive s slot = false)
    (hs : P s) : P (requestRelay slot tag b s).2 := by
  unfold requestRelay; split
  · exact hs
  · split
    · exact hs
    · exact intake_keeps h _ _ (refusal_none ‹_›).1 (refusal_none ‹_›).2 h3 hs

theorem requestWithdraw_keeps (h : Inner P) (b : List Byte) (hs : P s) : P (requestWithdraw b s).2 := by
  unfold requestWithdraw; split
  · exact hs
  · split <;> [exact endRelay_keeps h _ _ hs; exact hs]

theorem requestRuling_keeps (h : Inner P) (b : List Byte) (hs : P s) : P (requestRuling b s).2 := by
  unfold requestRuling; split
  · exact hs
  · split
    · exact hs
    · split
      · dsimp only; split <;> [exact passOn_keeps h _ (enterTake_keeps h.toQuiet _ _ hs); exact endRelay_keeps h _ _ hs]
      · exact hs

/-! ## The request chain -/

theorem RequestKind.run_keeps (h : Outer P) (k : RequestKind) (slot : Nat) (tag : Tag) (b : List Byte)
    (h3 : slotActive s slot = false) (hs : P s) : P (k.run slot tag b s).2 := by
  cases k
  · exact requestDeclareStack_keeps h.toMoves b hs
  · exact requestDeclareRobot_keeps h b hs
  · exact requestRetire_keeps h b hs
  · exact requestTune_keeps h b hs
  · exact requestLines_keeps h b hs
  · exact requestStandby_keeps h.toInner b hs
  · exact requestSeed_keeps h.toMoves b hs
  · exact requestRelay_keeps h slot tag b h3 hs
  · exact requestWithdraw_keeps h.toInner b hs
  · exact requestRuling_keeps h.toInner b hs

theorem runSlot_keeps (h : Outer P) (slot kind : Nat) (tag : Tag) (b : List Byte) (hs : P s) :
    P (runSlot slot kind tag b s).2 := by
  unfold runSlot; split
  · exact hs
  · split <;> [exact hs; exact RequestKind.run_keeps h _ _ _ _ (Bool.eq_false_iff.mpr ‹_›) hs]

theorem dispatch_keeps (h : Outer P) (slot kind : Nat) (tag : Tag) (b : List Byte) (hs : P s) :
    P (dispatch slot kind tag b s) := by
  have h1 := runSlot_keeps h slot kind tag b hs
  unfold dispatch; split
  · rename_i heq; rw [heq] at h1
    exact actDeferred_keeps h.toInner (h.endRequest _ _ _ _ h1)
  · rename_i heq; rw [heq] at h1
    exact actDeferred_keeps h.toInner h1

theorem takeSlot_keeps (h : Outer P) (k : Kept) (slot : Nat) (hs : P s) : P (takeSlot k slot s) := by
  have h1 := h.read s (k.slotAddr slot + 1) 143 hs
  unfold takeSlot; split
  · rename_i heq; rw [heq] at h1; exact h1
  · rename_i heq; rw [heq] at h1
    dsimp only
    split
    · exact h.write _ _ _ h1
    · exact dispatch_keeps h _ _ _ _ (h.cursor _ _ (h.write _ _ _ h1))

theorem readCursor_keeps (h : Outer P) (k : Kept) (c : Cursor) (hs : P s) : P (readCursor k c s).2 := by
  unfold readCursor; split
  · rename_i i
    have h1 := h.read s (k.slotAddr i) 1 hs
    split <;> (rename_i heq; rw [heq] at h1; exact h1)
  · rename_i a
    have h1 := h.read s (k.slotAddr a + 2) 2 hs
    split
    · rename_i heq; rw [heq] at h1; exact h1
    · rename_i link s1 heq; rw [heq] at h1
      split
      · exact h1
      · split
        · have h2 := h.read s1 (k.slotAddr (word16At link 0)) 1 h1
          split <;> (rename_i heq2; rw [heq2] at h2; exact h2)
        · exact h1

/-- A reading of the cursor that answers was made outside EXCHANGE_FAULT. -/
theorem readCursor_device {k : Kept} {c : Cursor} {f : Found} {s' : State} (hr : readCursor k c s = (some f, s')) :
    s'.device ≠ .exchangeFault := by
  unfold readCursor at hr
  split at hr
  · split at hr
    · cases hr
    · rename_i heq
      obtain ⟨h1, h2, -⟩ := readExchange_some heq
      cases hr; rw [h2]; exact h1
  · split at hr
    · cases hr
    · rename_i heq
      obtain ⟨h1, h2, -⟩ := readExchange_some heq
      split at hr
      · cases hr; rw [h2]; exact h1
      · split at hr
        · split at hr
          · cases hr
          · rename_i heq2
            obtain ⟨h3, h4, -⟩ := readExchange_some heq2
            cases hr; rw [h4]; exact h3
        · cases hr; rw [h2]; exact h1

theorem brokenLink_keeps (h : Outer P) (hd : s.device ≠ .exchangeFault) (hs : P s) : P (brokenLink s) :=
  h.event _ _ (h.pollDue _ _ (h.device s .broken s.run hd (by decide) (by simp) hs))

theorem walk_keeps (h : Outer P) (n : Nat) (k : Kept) (hs : P s) : P (walk n k s) := by
  induction n generalizing s with
  | zero => exact hs
  | succ n ih =>
    unfold walk; split
    · exact hs
    · rename_i c _
      have h1 := readCursor_keeps h k c hs
      split
      · rename_i heq; rw [heq] at h1; exact h1
      · rename_i heq; rw [heq] at h1; exact h1
      · rename_i heq; rw [heq] at h1; exact brokenLink_keeps h (readCursor_device heq) h1
      · rename_i heq; rw [heq] at h1
        dsimp only
        split <;> [exact takeSlot_keeps h _ _ h1; exact ih (takeSlot_keeps h _ _ h1)]

theorem poll_keeps (h : Outer P) (hs : P s) : P (poll s) := by
  unfold poll; split
  · exact hs
  · split
    · have h1 := h.takeIndex _ (h.pollCount s 0 hs)
      dsimp only
      generalize readTakeIndex { s with pollCount := 0 } = s1 at h1 ⊢
      have h2 : P (if faulted s1 = true then s1 else putGap s1) := by
        split <;> [exact h1; exact h.gap _ h1]
      generalize (if faulted s1 = true then s1 else putGap s1) = s2 at h2 ⊢
      split <;> [exact h2; exact walk_keeps h _ _ h2]
    · exact hs

/-! ## Registers -/

theorem startFails_keeps (h : Outer P) (hd : s.device ≠ .exchangeFault) (hs : P s) : P (startFails s) :=
  h.event _ _ (h.device s s.device false hd hd id hs)

/-- A start of a device that is not in EXCHANGE_FAULT. -/
theorem startRuns_keeps (h : Outer P) (x : Header) (hd : s.device = .idle) (hx : x.passes s.exchangeBase.toNat = true) (hs : P s) :
    P (startRuns x s) := by
  have h1 := h.write _ (s.exchangeBase.toNat + 28) (le16 x.takeIndex) (h.started s x hd hx hs)
  unfold startRuns; dsimp only
  split
  · exact h.write _ _ _ h1
  · rename_i hf
    exact poll_keeps h (h.device _ .running _ (by simpa [faulted] using hf) (by decide) (by simp) (h.write _ _ _ h1))

theorem start_keeps (h : Outer P) (hd : s.device = .idle) (hs : P s) : P (start s) := by
  have h1 := h.read s s.exchangeBase.toNat Config.headerBytes hs
  unfold start; split
  · exact startFails_keeps h (by simp [hd]) hs
  · split
    · rename_i heq; rw [heq] at h1; exact h1
    · rename_i heq
      have h2 := readExchange_some heq
      rw [heq] at h1
      split
      · rename_i hx
        exact startRuns_keeps h _ (by rw [h2.2.1]; exact hd) (by rw [h2.2.1]; exact hx) h1
      · exact startFails_keeps h (by rw [h2.2.1]; exact h2.1) h1

theorem setRun_keeps (h : Outer P) (hs : P s) : P (setRun s) := by
  unfold setRun; split
  · rename_i hd
    exact start_keeps h hd (h.device s s.device true (by simp [hd]) (by simp [hd]) id hs)
  · rename_i hd
    exact poll_keeps h (h.device s .running true (by simp [hd]) (by decide) (by simp) hs)
  all_goals exact hs

theorem clearRun_keeps (h : Outer P) (hs : P s) : P (clearRun s) := by
  unfold clearRun; split
  · rename_i hd; exact h.pollDue _ _ (h.device s .stopped false (by simp [hd]) (by decide) (by simp) hs)
  · rename_i hd; exact h.pollDue _ _ (h.device s .stopped false (by simp [hd]) (by decide) (by simp) hs)
  all_goals exact hs

theorem chainRestart_keeps (h : Outer P) (i : Nat) (hs : P s) : P (chainRestart i s) := by
  unfold chainRestart; split
  · rename_i hd
    have hd' : s.device ≠ .exchangeFault := by rcases hd.1 with h | h <;> simp [h]
    exact poll_keeps h (h.cursor _ _ (h.device s .running true hd' (by decide) (by simp) hs))
  · exact hs

theorem nudged_keeps (h : Outer P) (hs : P s) : P (nudged s) := by
  unfold nudged; split <;> [exact poll_keeps h hs; exact hs]

theorem writeControl_keeps (h : Outer P) (v : BitVec 32) (hr : v.getLsbD 1 = true → Resets P) (hs : P s) : P (writeControl v s) := by
  unfold writeControl; split
  · exact (hr ‹_›).soft _ hs
  · have h1 := h.clearMode s (v.getLsbD 4) hs
    have h2 : ∀ s, P s → P (if v.getLsbD 0 = s.run then s else if v.getLsbD 0 then setRun s else clearRun s) := by
      intro s hs
      split
      · exact hs
      · split <;> [exact setRun_keeps h hs; exact clearRun_keeps h hs]
    have h3 : ∀ s, P s → P (if v.getLsbD 2 then writeHold s else s) := by
      intro s hs; split <;> [exact writeHold_keeps h hs; exact hs]
    dsimp only
    split
    · exact writeResume_keeps h (h3 _ (h2 _ h1))
    · exact h3 _ (h2 _ h1)

theorem writeRegister_keeps (h : Outer P) (o : Nat) (v : BitVec 64) (bus : Bus)
    (hr : (Instr.registerWrite o v bus).resets = true → Resets P) (hs : P s) : P (writeRegister o v s) := by
  unfold writeRegister; split
  · rename_i ho
    refine writeControl_keeps h _ (fun hv => hr ?_) hs
    simp only [Instr.resets, Instr.isReset, ho, beq_self_eq_true, Bool.true_and, Bool.or_eq_true]
    exact .inl (by simpa using hv)
  repeat' split
  · exact h.writeEvents _ _ hs
  · exact h.writeMask _ _ hs
  · exact nudged_keeps h hs
  · exact chainRestart_keeps h _ hs
  · exact h.writeBase _ _ hs
  · exact hs

/-! ## Every command and every step -/

theorem applyReset_keeps (h : Resets P) (k : ResetKind) (hs : P s) : P (applyReset k s) := by
  cases k <;> [exact h.powerOn _ hs; exact h.soft _ hs]

/-- The end of a command keeps a property that the landing of the host's writes keeps; the resets need to keep it only when
one arrives. -/
theorem finishBus_keeps {bus : Bus} (hc : ∀ s, P s → P (endBus s)) (hr : bus.reset.isSome = true → Resets P) (hs : P s) :
    P (finishBus bus s) := by
  unfold finishBus; split
  · exact hc _ hs
  · rename_i hb; exact applyReset_keeps (hr (by simp [hb])) _ (hc _ hs)

/-- A command with a bus operand keeps what its rule, its bus and its end keep. -/
theorem withBus_keeps {bus : Bus} {f : State → State} {t : State} (ho : P s → P (beginBus (inForce bus) s))
    (hc : ∀ s, P s → P (finishBus bus s)) (hf : ∀ s, P s → P (f s)) (he : withBus bus f s = .next t) (hs : P s) : P t := by
  cases he; exact hc _ (hf _ (ho hs))

theorem oneFrame_keeps (h : Hears P) {f : InFrame} {bus : Bus} {t : State} (ho : P s → P (beginBus (inForce bus) s))
    (hc : ∀ s, P s → P (finishBus bus s)) (he : oneFrame f bus s = .next t) (hs : P s) : P t :=
  withBus_keeps ho hc (fun _ hs => takeFrame_keeps h _ (h.rx _ _ hs)) he hs

/-- A command of the fleet link or of a clock keeps a property that the updates behind it keep. -/
theorem exec_hop_keeps (h : Hears P) (c : Instr) (hp : c.isHop = true) (ho : P s → P (beginBus (inForce c.bus) s))
    (hc : ∀ s, P s → P (finishBus c.bus s)) {t : State} (he : exec c s = .next t) (hs : P s) : P t := by
  have hi := h.toInner
  cases c with
  | stepWarn tag side bus =>
    simp only [exec, execStepWarn] at he
    refine withBus_keeps ho hc (fun _ hs => ?_) he hs
    split
    · split <;> [exact hs; exact actLate_keeps hi _ _ _ (modTimer_keeps hi _ _ _ hs)]
    · exact hs
  | buryWarn tag bus =>
    simp only [exec, execBuryWarn] at he
    refine withBus_keeps ho hc (fun _ hs => ?_) he hs
    split
    · have h1 := modTimer_keeps hi tag .take (fun m => { m with warnDue := false }) hs
      split
      · exact actDeferred_keeps hi (startShuffle_keeps hi.toQuiet h1 ‹_›)
      · exact actLate_keeps hi _ _ _ h1
    · exact hs
  | placeLimit tag bus =>
    exact withBus_keeps ho hc (fun _ hs => takeLimit_keeps hi _ _ _ (fun _ hs => limitEnds_keeps hi _ _ hs) hs) he hs
  | giveApproachLimit tag bus =>
    exact withBus_keeps ho hc
      (fun _ hs => takeLimit_keeps hi _ _ _ (fun _ hs => limitFaults_keeps hi _ _ _ _ hs) hs) he hs
  | giveWaitLimit tag side bus =>
    refine withBus_keeps ho hc (fun _ hs => takeLimit_keeps hi _ _ _ (fun _ hs => ?_) hs) he hs
    cases side <;> [exact limitEnds_keeps hi _ _ hs; exact shuffleWaitLimit_keeps hi _ hs]
  | giveActLimit tag side bus =>
    refine withBus_keeps ho hc (fun _ hs => takeLimit_keeps hi _ _ _ (fun _ hs => ?_) hs) he hs
    cases side <;> [exact limitFaults_keeps hi _ _ _ _ hs; exact shuffleStepLimit_keeps hi _ _ hs]
  | takeApproachLimit tag bus =>
    exact withBus_keeps ho hc
      (fun _ hs => takeLimit_keeps hi _ _ _ (fun _ hs => takeApproachOver_keeps hi _ hs) hs) he hs
  | restLimit tag bus =>
    exact withBus_keeps ho hc (fun _ hs => takeLimit_keeps hi _ _ _ (fun _ hs => limitEnds_keeps hi _ _ hs) hs) he hs
  | takeActLimit tag bus =>
    simp only [exec, execTakeActLimit] at he
    refine withBus_keeps ho hc (fun _ hs => takeLimit_keeps hi _ _ _ (fun _ hs => ?_) hs) he hs
    split <;> [exact shuffleStepLimit_keeps hi _ _ hs; exact limitFaults_keeps hi _ _ _ _ hs]
  | buryLimit tag bus =>
    exact withBus_keeps ho hc (fun _ hs => takeLimit_keeps hi _ _ _ (fun _ hs => limitEnds_keeps hi _ _ hs) hs) he hs
  | queryLimit tag bus =>
    exact withBus_keeps ho hc (fun _ hs => takeLimit_keeps hi _ _ _ (fun _ hs => limitEnds_keeps hi _ _ hs) hs) he hs
  | exposureExpiry tag bus =>
    simp only [exec, execExposureExpiry] at he
    refine withBus_keeps ho hc (fun _ hs => ?_) he hs
    split
    · exact actDeferred_keeps hi (expiryActs_keeps hi _ (expireClock_keeps hi _ hs))
    · exact hs
  | silenceLimit bus =>
    simp only [exec, execSilenceLimit] at he
    refine withBus_keeps ho hc (fun s hs => ?_) he hs
    split <;> [exact linkGoesDown_keeps h (h.linkState s s.linkUp s.silence false hs); exact hs]
  | frameAbandon bytes bus =>
    exact withBus_keeps ho hc (fun _ hs => takeBytes_keeps h _ (takeBytes_keeps h _ hs)) he hs
  | badFrame bytes bus => exact withBus_keeps ho hc (fun _ hs => takeBytes_keeps h _ hs) he hs
  | arrived robot seq x y bus => exact oneFrame_keeps h ho hc he hs
  | refused robot seq bus => exact oneFrame_keeps h ho hc he hs
  | setDone robot seq level bus => exact oneFrame_keeps h ho hc he hs
  | liftDone robot seq level load bus => exact oneFrame_keeps h ho hc he hs
  | position robot x y bus => exact oneFrame_keeps h ho hc he hs
  | fault robot bus => exact oneFrame_keeps h ho hc he hs
  | beacon bus => exact oneFrame_keeps h ho hc he hs
  | _ => cases hp

/-- A command keeps a property that the single updates keep, the beginning of its own bus operand and the end of a
command among them; the resets need to keep it only when the command is one or one arrives during it. -/
theorem exec_keeps (h : Outer P) (c : Instr) (hr : c.resets = true → Resets P)
    (ho : P s → P (beginBus (inForce c.bus) s)) (hc : ∀ s, P s → P (endBus s)) {t : State} (he : exec c s = .next t)
    (hs : P s) : P t := by
  replace hc : ∀ s, P s → P (finishBus c.bus s) := fun _ => finishBus_keeps hc fun hb => hr (by simp [Instr.resets, hb])
  by_cases hp : c.isHop = true
  · exact exec_hop_keeps h.toHears c hp ho hc he hs
  have hi := h.toInner
  cases c with
  | powerOnReset => cases he; exact (hr rfl).powerOn _ hs
  | reset => cases he; exact (hr rfl).soft _ hs
  | runSet bus => exact withBus_keeps ho hc (fun _ hs => setRun_keeps h hs) he hs
  | runClear => cases he; exact clearRun_keeps h hs
  | hold bus => exact withBus_keeps ho hc (fun _ hs => writeHold_keeps h hs) he hs
  | resume bus => exact withBus_keeps ho hc (fun _ hs => writeResume_keeps h hs) he hs
  | clearMode mode => cases he; exact h.clearMode _ _ hs
  | eventsRead => cases he; exact h.readEvents _ hs
  | eventsWrite value => cases he; exact h.writeEvents _ _ hs
  | eventMaskWrite value => cases he; exact h.writeMask _ _ hs
  | nudge value bus => exact withBus_keeps ho hc (fun _ hs => nudged_keeps h hs) he hs
  | chainStart value bus => exact withBus_keeps ho hc (fun _ hs => chainRestart_keeps h _ hs) he hs
  | exchangeBaseWrite value => cases he; exact h.writeBase _ _ hs
  | registerWrite offset value bus => exact withBus_keeps ho hc (fun _ hs => writeRegister_keeps h _ _ bus hr hs) he hs
  | tick => cases he; split <;> [exact hs; exact h.tick _ hs]
  | chainPoll bus =>
    simp only [exec, execChainPoll] at he
    refine withBus_keeps ho hc (fun _ hs => ?_) he hs
    split <;> [exact poll_keeps h (h.pollDue _ _ hs); exact hs]
  | debounceExpiry line bus =>
    change execDebounceExpiry line bus s = .next t at he
    unfold execDebounceExpiry at he
    split at he
    · exact withBus_keeps ho hc (fun _ hs => actDeferred_keeps hi (debounceExpired_keeps h _ hs)) he hs
    · cases he
  | rawLineChange line level bus =>
    change execRawLineChange line level bus s = .next t at he
    unfold execRawLineChange at he
    split at he
    · exact withBus_keeps ho hc (fun _ hs => actDeferred_keeps hi (rawChanged_keeps h _ _ hs)) he hs
    · cases he
  | transmitStart =>
    cases he
    split
    · split <;> [exact h.tx _ _ hs; exact hs]
    · exact hs
  | frameSent =>
    cases he
    split <;> [exact h.tx _ _ (hi.outq s (s.outq.drop 1) hs); exact hs]
  | _ => exact absurd rfl hp

/-- Every step keeps a property that the single updates, the resets, every bus operand and the queue of commands
keep. -/
theorem step_keeps (h : Outer P) (hr : Resets P) (ho : ∀ s bus, P s → P (beginBus (inForce bus) s))
    (hc : ∀ s, P s → P (endBus s)) (hq : ∀ s v, P s → P { s with pending := v }) {t : State}
    (he : step s = .next t) (hs : P s) : P t := by
  unfold step at he
  split at he
  · exact exec_keeps h _ (fun _ => hr) (ho _ _) hc he (hq _ _ hs)
  · cases he; exact hs

end Sys2Proof.Machine
end

