-- ==== Sys2Proof/Laws/Memory.lean ====
section
/-!
SUPPORT. The laws of host memory: a read after a write, and the canonical form kept by every memory operation.
-/

namespace Sys2Proof.Machine

/-! ## A read after a write -/

theorem Memory.get_set_other (m : List Host.Cell) {a a' : Nat} (b : Byte) (h : a' ≠ a) :
    Memory.get (Memory.set m a b) a' = Memory.get m a' := by
  induction m with
  | nil => simp only [Memory.set]; split <;> simp [Memory.get, *, Ne.symm h]
  | cons c rest ih =>
    obtain ⟨k, v⟩ := c
    simp only [Memory.set]
    split
    · split <;> simp [Memory.get, Ne.symm h]
    · split
      · subst_vars; split <;> simp [Memory.get, Ne.symm h]
      · simp [Memory.get, ih]

/-- Every address of a canonical memory below its first entry is unlisted. -/
theorem Memory.get_below (m : List Host.Cell) (a : Nat) (h : m.all (fun c => a < c.1) = true) :
    Memory.get m a = Config.unwrittenByte := by
  induction m with
  | nil => rfl
  | cons c rest ih =>
    obtain ⟨k, v⟩ := c
    simp only [List.all_cons, Bool.and_eq_true, decide_eq_true_eq] at h
    have hk : k ≠ a := by omega
    simp [Memory.get, hk, ih h.2]

theorem Memory.get_set_same (m : List Host.Cell) (a : Nat) (b : Byte) (h : Memory.wf m = true) :
    Memory.get (Memory.set m a b) a = b := by
  induction m with
  | nil => simp only [Memory.set]; split <;> simp_all [Memory.get]
  | cons c rest ih =>
    obtain ⟨k, v⟩ := c
    simp only [Memory.wf, Bool.and_eq_true] at h
    obtain ⟨⟨-, hk⟩, hr⟩ := h
    simp only [Memory.set]
    split
    · rename_i hak
      split
      · subst_vars
        refine Memory.get_below _ _ ?_
        simp only [List.all_cons, Bool.and_eq_true, decide_eq_true_eq]
        refine ⟨hak, ?_⟩
        rw [List.all_eq_true] at hk ⊢
        intro c hc
        have := hk c hc
        simp only [decide_eq_true_eq] at this ⊢
        omega
      · simp [Memory.get]
    · split
      · subst_vars
        split
        · subst_vars; exact Memory.get_below _ _ hk
        · simp [Memory.get]
      · rename_i h1 h2
        simp [Memory.get, Ne.symm h2, ih hr]

/-! ## The canonical form -/

theorem Memory.set_all (m : List Host.Cell) (a : Nat) (b : Byte) (l : Nat) (hl : l < a)
    (h : m.all (fun c => l < c.1) = true) : (Memory.set m a b).all (fun c => l < c.1) = true := by
  induction m with
  | nil => simp only [Memory.set]; split <;> simp [hl]
  | cons c rest ih =>
    obtain ⟨k, v⟩ := c
    rw [List.all_cons, Bool.and_eq_true, decide_eq_true_eq] at h
    have hall : ((k, v) :: rest).all (fun c => decide (l < c.1)) = true := by
      rw [List.all_cons, h.2, Bool.and_true]; exact decide_eq_true h.1
    simp only [Memory.set]
    split
    · split
      · exact hall
      · rw [List.all_cons, hall, Bool.and_true]; exact decide_eq_true hl
    · split
      · split
        · exact h.2
        · rw [List.all_cons, h.2, Bool.and_true]; exact decide_eq_true hl
      · rw [List.all_cons, ih h.2, Bool.and_true]; exact decide_eq_true h.1

/-- A write keeps the canonical form. -/
theorem Memory.set_wf (m : List Host.Cell) (a : Nat) (b : Byte) (h : Memory.wf m = true) :
    Memory.wf (Memory.set m a b) = true := by
  induction m with
  | nil => simp only [Memory.set]; split <;> simp_all [Memory.wf]
  | cons c rest ih =>
    obtain ⟨k, v⟩ := c
    have h' := h
    simp only [Memory.wf, Bool.and_eq_true] at h
    obtain ⟨⟨hv, hk⟩, hr⟩ := h
    simp only [Memory.set]
    split
    · rename_i hak
      split
      · exact h'
      · simp only [Memory.wf, List.all_cons, Bool.and_eq_true, decide_eq_true_eq]
        refine ⟨⟨by simpa using ‹¬b = _›, hak, ?_⟩, ⟨hv, hk⟩, hr⟩
        rw [List.all_eq_true] at hk ⊢
        intro c hc
        have := hk c hc
        simp only [decide_eq_true_eq] at this ⊢
        omega
    · split
      · subst_vars
        split
        · exact hr
        · simp only [Memory.wf, Bool.and_eq_true]
          exact ⟨⟨by simpa using ‹¬b = _›, hk⟩, hr⟩
      · rename_i h1 h2
        simp only [Memory.wf, Bool.and_eq_true]
        exact ⟨⟨hv, Memory.set_all _ _ _ _ (by omega) hk⟩, ih hr⟩

theorem Memory.put_wf (m : List Host.Cell) (a : Nat) (bs : List Byte) (h : Memory.wf m = true) :
    Memory.wf (Memory.put m a bs) = true := by
  induction bs generalizing m a with
  | nil => exact h
  | cons b rest ih => exact ih _ _ (Memory.set_wf _ _ _ h)

theorem Memory.putLanded_wf (m : List Host.Cell) (a : Nat) (bs : List Byte) (ls : List Bool)
    (h : Memory.wf m = true) : Memory.wf (Memory.putLanded m a bs ls) = true := by
  induction bs generalizing m a ls with
  | nil => simpa [Memory.putLanded] using h
  | cons b rest ih =>
    cases ls with
    | nil => simpa [Memory.putLanded] using h
    | cons l ls =>
      simp only [Memory.putLanded]
      exact ih _ _ _ (by split <;> [exact Memory.set_wf _ _ _ h; exact h])

theorem Memory.hostWrites_wf (m : List Host.Cell) (ws : List HostWrite) (h : Memory.wf m = true) :
    Memory.wf (Memory.hostWrites m ws) = true := by
  unfold Memory.hostWrites
  induction ws generalizing m with
  | nil => exact h
  | cons w rest ih => exact ih _ (Memory.set_wf _ _ _ h)

/-! ## Longer writes -/

/-- A write of several bytes leaves every address outside them as it was. -/
theorem Memory.get_put_outside (m : List Host.Cell) (a : Nat) (bs : List Byte) (x : Nat)
    (h : x < a ∨ a + bs.length ≤ x) : Memory.get (Memory.put m a bs) x = Memory.get m x := by
  induction bs generalizing m a with
  | nil => rfl
  | cons b rest ih =>
    simp only [List.length_cons] at h
    simp only [Memory.put]
    rw [ih _ _ (by omega), Memory.get_set_other _ _ (by omega)]

/-- A write of several bytes reads back. -/
theorem Memory.get_put_inside (m : List Host.Cell) (a : Nat) (bs : List Byte) (i : Nat) (hi : i < bs.length)
    (h : Memory.wf m = true) : Memory.get (Memory.put m a bs) (a + i) = bs[i] := by
  induction bs generalizing m a i with
  | nil => simp at hi
  | cons b rest ih =>
    simp only [Memory.put]
    cases i with
    | zero =>
      rw [Nat.add_zero, Memory.get_put_outside _ _ _ _ (by omega)]
      exact Memory.get_set_same _ _ _ h
    | succ i =>
      have := ih (Memory.set m a b) (a + 1) i (by simpa using hi) (Memory.set_wf _ _ _ h)
      rw [show a + (i + 1) = a + 1 + i by omega, this]
      rfl

theorem Memory.bytes_put_inside (m : List Host.Cell) (a : Nat) (bs : List Byte) (h : Memory.wf m = true) :
    Memory.bytes (Memory.put m a bs) a bs.length = bs := by
  apply List.ext_getElem
  · simp [Memory.bytes]
  · intro i h1 h2
    simp only [Memory.bytes, List.getElem_map, List.getElem_range]
    exact Memory.get_put_inside _ _ _ _ h2 h

/-- A host's writes leave every address that they do not name as it was. -/
theorem Memory.get_hostWrites_other (m : List Host.Cell) (ws : List HostWrite) (x : Nat)
    (h : ∀ w ∈ ws, w.addr ≠ x) : Memory.get (Memory.hostWrites m ws) x = Memory.get m x := by
  unfold Memory.hostWrites
  induction ws generalizing m with
  | nil => rfl
  | cons w rest ih =>
    simp only [List.foldl_cons]
    rw [ih _ fun w hw => h w (List.mem_cons_of_mem _ hw)]
    exact Memory.get_set_other _ _ (Ne.symm (h w List.mem_cons_self))

end Sys2Proof.Machine
end

