-- ==== Sys2Proof/Laws/State.lean ====
section
/-!
SUPPORT. What each single update of the state leaves in each field: one lemma per field per update, true by `rfl`.
-/

namespace Sys2Proof.Machine

variable (s : State)

/-! ## modStack -/

@[simp] theorem modStack_stackRecs (i : Nat) (f : StackRec → StackRec) : (modStack i f s).stackRecs = s.stackRecs.modify i f := rfl
@[simp] theorem modStack_placeWait (i : Nat) (f : StackRec → StackRec) : (modStack i f s).placeWait = s.placeWait := rfl
@[simp] theorem modStack_relays (i : Nat) (f : StackRec → StackRec) : (modStack i f s).relays = s.relays := rfl
@[simp] theorem modStack_robots (i : Nat) (f : StackRec → StackRec) : (modStack i f s).robots = s.robots := rfl
@[simp] theorem modStack_standby (i : Nat) (f : StackRec → StackRec) : (modStack i f s).standby = s.standby := rfl
@[simp] theorem modStack_tick (i : Nat) (f : StackRec → StackRec) : (modStack i f s).tick = s.tick := rfl
@[simp] theorem modStack_tickPeriod (i : Nat) (f : StackRec → StackRec) : (modStack i f s).tickPeriod = s.tickPeriod := rfl
@[simp] theorem modStack_tuning (i : Nat) (f : StackRec → StackRec) : (modStack i f s).tuning = s.tuning := rfl
@[simp] theorem modStack_linkUp (i : Nat) (f : StackRec → StackRec) : (modStack i f s).linkUp = s.linkUp := rfl
@[simp] theorem modStack_silence (i : Nat) (f : StackRec → StackRec) : (modStack i f s).silence = s.silence := rfl
@[simp] theorem modStack_silenceDue (i : Nat) (f : StackRec → StackRec) : (modStack i f s).silenceDue = s.silenceDue := rfl
@[simp] theorem modStack_outq (i : Nat) (f : StackRec → StackRec) : (modStack i f s).outq = s.outq := rfl
@[simp] theorem modStack_tx (i : Nat) (f : StackRec → StackRec) : (modStack i f s).tx = s.tx := rfl
@[simp] theorem modStack_rx (i : Nat) (f : StackRec → StackRec) : (modStack i f s).rx = s.rx := rfl
@[simp] theorem modStack_lines (i : Nat) (f : StackRec → StackRec) : (modStack i f s).lines = s.lines := rfl
@[simp] theorem modStack_hold (i : Nat) (f : StackRec → StackRec) : (modStack i f s).hold = s.hold := rfl
@[simp] theorem modStack_device (i : Nat) (f : StackRec → StackRec) : (modStack i f s).device = s.device := rfl
@[simp] theorem modStack_run (i : Nat) (f : StackRec → StackRec) : (modStack i f s).run = s.run := rfl
@[simp] theorem modStack_clearMode (i : Nat) (f : StackRec → StackRec) : (modStack i f s).clearMode = s.clearMode := rfl
@[simp] theorem modStack_events (i : Nat) (f : StackRec → StackRec) : (modStack i f s).events = s.events := rfl
@[simp] theorem modStack_eventMask (i : Nat) (f : StackRec → StackRec) : (modStack i f s).eventMask = s.eventMask := rfl
@[simp] theorem modStack_exchangeBase (i : Nat) (f : StackRec → StackRec) : (modStack i f s).exchangeBase = s.exchangeBase := rfl
@[simp] theorem modStack_kept (i : Nat) (f : StackRec → StackRec) : (modStack i f s).kept = s.kept := rfl
@[simp] theorem modStack_cursor (i : Nat) (f : StackRec → StackRec) : (modStack i f s).cursor = s.cursor := rfl
@[simp] theorem modStack_pollCount (i : Nat) (f : StackRec → StackRec) : (modStack i f s).pollCount = s.pollCount := rfl
@[simp] theorem modStack_pollDue (i : Nat) (f : StackRec → StackRec) : (modStack i f s).pollDue = s.pollDue := rfl
@[simp] theorem modStack_gap (i : Nat) (f : StackRec → StackRec) : (modStack i f s).gap = s.gap := rfl
@[simp] theorem modStack_mem (i : Nat) (f : StackRec → StackRec) : (modStack i f s).mem = s.mem := rfl
@[simp] theorem modStack_readData (i : Nat) (f : StackRec → StackRec) : (modStack i f s).readData = s.readData := rfl
@[simp] theorem modStack_bus (i : Nat) (f : StackRec → StackRec) : (modStack i f s).bus = s.bus := rfl
@[simp] theorem modStack_busCount (i : Nat) (f : StackRec → StackRec) : (modStack i f s).busCount = s.busCount := rfl
@[simp] theorem modStack_deferred (i : Nat) (f : StackRec → StackRec) : (modStack i f s).deferred = s.deferred := rfl
@[simp] theorem modStack_pending (i : Nat) (f : StackRec → StackRec) : (modStack i f s).pending = s.pending := rfl

/-! ## modRobot -/

@[simp] theorem modRobot_stackRecs (r : Nat) (f : Robot → Robot) : (modRobot r f s).stackRecs = s.stackRecs := rfl
@[simp] theorem modRobot_placeWait (r : Nat) (f : Robot → Robot) : (modRobot r f s).placeWait = s.placeWait := rfl
@[simp] theorem modRobot_relays (r : Nat) (f : Robot → Robot) : (modRobot r f s).relays = s.relays := rfl
@[simp] theorem modRobot_robots (r : Nat) (f : Robot → Robot) : (modRobot r f s).robots = s.robots.map fun c => if c.id = r then f c else c := rfl
@[simp] theorem modRobot_standby (r : Nat) (f : Robot → Robot) : (modRobot r f s).standby = s.standby := rfl
@[simp] theorem modRobot_tick (r : Nat) (f : Robot → Robot) : (modRobot r f s).tick = s.tick := rfl
@[simp] theorem modRobot_tickPeriod (r : Nat) (f : Robot → Robot) : (modRobot r f s).tickPeriod = s.tickPeriod := rfl
@[simp] theorem modRobot_tuning (r : Nat) (f : Robot → Robot) : (modRobot r f s).tuning = s.tuning := rfl
@[simp] theorem modRobot_linkUp (r : Nat) (f : Robot → Robot) : (modRobot r f s).linkUp = s.linkUp := rfl
@[simp] theorem modRobot_silence (r : Nat) (f : Robot → Robot) : (modRobot r f s).silence = s.silence := rfl
@[simp] theorem modRobot_silenceDue (r : Nat) (f : Robot → Robot) : (modRobot r f s).silenceDue = s.silenceDue := rfl
@[simp] theorem modRobot_outq (r : Nat) (f : Robot → Robot) : (modRobot r f s).outq = s.outq := rfl
@[simp] theorem modRobot_tx (r : Nat) (f : Robot → Robot) : (modRobot r f s).tx = s.tx := rfl
@[simp] theorem modRobot_rx (r : Nat) (f : Robot → Robot) : (modRobot r f s).rx = s.rx := rfl
@[simp] theorem modRobot_lines (r : Nat) (f : Robot → Robot) : (modRobot r f s).lines = s.lines := rfl
@[simp] theorem modRobot_hold (r : Nat) (f : Robot → Robot) : (modRobot r f s).hold = s.hold := rfl
@[simp] theorem modRobot_device (r : Nat) (f : Robot → Robot) : (modRobot r f s).device = s.device := rfl
@[simp] theorem modRobot_run (r : Nat) (f : Robot → Robot) : (modRobot r f s).run = s.run := rfl
@[simp] theorem modRobot_clearMode (r : Nat) (f : Robot → Robot) : (modRobot r f s).clearMode = s.clearMode := rfl
@[simp] theorem modRobot_events (r : Nat) (f : Robot → Robot) : (modRobot r f s).events = s.events := rfl
@[simp] theorem modRobot_eventMask (r : Nat) (f : Robot → Robot) : (modRobot r f s).eventMask = s.eventMask := rfl
@[simp] theorem modRobot_exchangeBase (r : Nat) (f : Robot → Robot) : (modRobot r f s).exchangeBase = s.exchangeBase := rfl
@[simp] theorem modRobot_kept (r : Nat) (f : Robot → Robot) : (modRobot r f s).kept = s.kept := rfl
@[simp] theorem modRobot_cursor (r : Nat) (f : Robot → Robot) : (modRobot r f s).cursor = s.cursor := rfl
@[simp] theorem modRobot_pollCount (r : Nat) (f : Robot → Robot) : (modRobot r f s).pollCount = s.pollCount := rfl
@[simp] theorem modRobot_pollDue (r : Nat) (f : Robot → Robot) : (modRobot r f s).pollDue = s.pollDue := rfl
@[simp] theorem modRobot_gap (r : Nat) (f : Robot → Robot) : (modRobot r f s).gap = s.gap := rfl
@[simp] theorem modRobot_mem (r : Nat) (f : Robot → Robot) : (modRobot r f s).mem = s.mem := rfl
@[simp] theorem modRobot_readData (r : Nat) (f : Robot → Robot) : (modRobot r f s).readData = s.readData := rfl
@[simp] theorem modRobot_bus (r : Nat) (f : Robot → Robot) : (modRobot r f s).bus = s.bus := rfl
@[simp] theorem modRobot_busCount (r : Nat) (f : Robot → Robot) : (modRobot r f s).busCount = s.busCount := rfl
@[simp] theorem modRobot_deferred (r : Nat) (f : Robot → Robot) : (modRobot r f s).deferred = s.deferred := rfl
@[simp] theorem modRobot_pending (r : Nat) (f : Robot → Robot) : (modRobot r f s).pending = s.pending := rfl

/-! ## modRelay -/

@[simp] theorem modRelay_stackRecs (t : Tag) (f : Relay → Relay) : (modRelay t f s).stackRecs = s.stackRecs := rfl
@[simp] theorem modRelay_placeWait (t : Tag) (f : Relay → Relay) : (modRelay t f s).placeWait = s.placeWait := rfl
@[simp] theorem modRelay_relays (t : Tag) (f : Relay → Relay) : (modRelay t f s).relays = s.relays.map fun r => if r.tag = t then f r else r := rfl
@[simp] theorem modRelay_robots (t : Tag) (f : Relay → Relay) : (modRelay t f s).robots = s.robots := rfl
@[simp] theorem modRelay_standby (t : Tag) (f : Relay → Relay) : (modRelay t f s).standby = s.standby := rfl
@[simp] theorem modRelay_tick (t : Tag) (f : Relay → Relay) : (modRelay t f s).tick = s.tick := rfl
@[simp] theorem modRelay_tickPeriod (t : Tag) (f : Relay → Relay) : (modRelay t f s).tickPeriod = s.tickPeriod := rfl
@[simp] theorem modRelay_tuning (t : Tag) (f : Relay → Relay) : (modRelay t f s).tuning = s.tuning := rfl
@[simp] theorem modRelay_linkUp (t : Tag) (f : Relay → Relay) : (modRelay t f s).linkUp = s.linkUp := rfl
@[simp] theorem modRelay_silence (t : Tag) (f : Relay → Relay) : (modRelay t f s).silence = s.silence := rfl
@[simp] theorem modRelay_silenceDue (t : Tag) (f : Relay → Relay) : (modRelay t f s).silenceDue = s.silenceDue := rfl
@[simp] theorem modRelay_outq (t : Tag) (f : Relay → Relay) : (modRelay t f s).outq = s.outq := rfl
@[simp] theorem modRelay_tx (t : Tag) (f : Relay → Relay) : (modRelay t f s).tx = s.tx := rfl
@[simp] theorem modRelay_rx (t : Tag) (f : Relay → Relay) : (modRelay t f s).rx = s.rx := rfl
@[simp] theorem modRelay_lines (t : Tag) (f : Relay → Relay) : (modRelay t f s).lines = s.lines := rfl
@[simp] theorem modRelay_hold (t : Tag) (f : Relay → Relay) : (modRelay t f s).hold = s.hold := rfl
@[simp] theorem modRelay_device (t : Tag) (f : Relay → Relay) : (modRelay t f s).device = s.device := rfl
@[simp] theorem modRelay_run (t : Tag) (f : Relay → Relay) : (modRelay t f s).run = s.run := rfl
@[simp] theorem modRelay_clearMode (t : Tag) (f : Relay → Relay) : (modRelay t f s).clearMode = s.clearMode := rfl
@[simp] theorem modRelay_events (t : Tag) (f : Relay → Relay) : (modRelay t f s).events = s.events := rfl
@[simp] theorem modRelay_eventMask (t : Tag) (f : Relay → Relay) : (modRelay t f s).eventMask = s.eventMask := rfl
@[simp] theorem modRelay_exchangeBase (t : Tag) (f : Relay → Relay) : (modRelay t f s).exchangeBase = s.exchangeBase := rfl
@[simp] theorem modRelay_kept (t : Tag) (f : Relay → Relay) : (modRelay t f s).kept = s.kept := rfl
@[simp] theorem modRelay_cursor (t : Tag) (f : Relay → Relay) : (modRelay t f s).cursor = s.cursor := rfl
@[simp] theorem modRelay_pollCount (t : Tag) (f : Relay → Relay) : (modRelay t f s).pollCount = s.pollCount := rfl
@[simp] theorem modRelay_pollDue (t : Tag) (f : Relay → Relay) : (modRelay t f s).pollDue = s.pollDue := rfl
@[simp] theorem modRelay_gap (t : Tag) (f : Relay → Relay) : (modRelay t f s).gap = s.gap := rfl
@[simp] theorem modRelay_mem (t : Tag) (f : Relay → Relay) : (modRelay t f s).mem = s.mem := rfl
@[simp] theorem modRelay_readData (t : Tag) (f : Relay → Relay) : (modRelay t f s).readData = s.readData := rfl
@[simp] theorem modRelay_bus (t : Tag) (f : Relay → Relay) : (modRelay t f s).bus = s.bus := rfl
@[simp] theorem modRelay_busCount (t : Tag) (f : Relay → Relay) : (modRelay t f s).busCount = s.busCount := rfl
@[simp] theorem modRelay_deferred (t : Tag) (f : Relay → Relay) : (modRelay t f s).deferred = s.deferred := rfl
@[simp] theorem modRelay_pending (t : Tag) (f : Relay → Relay) : (modRelay t f s).pending = s.pending := rfl

/-! ## modLine -/

@[simp] theorem modLine_stackRecs (n : Nat) (f : Line → Line) : (modLine n f s).stackRecs = s.stackRecs := rfl
@[simp] theorem modLine_placeWait (n : Nat) (f : Line → Line) : (modLine n f s).placeWait = s.placeWait := rfl
@[simp] theorem modLine_relays (n : Nat) (f : Line → Line) : (modLine n f s).relays = s.relays := rfl
@[simp] theorem modLine_robots (n : Nat) (f : Line → Line) : (modLine n f s).robots = s.robots := rfl
@[simp] theorem modLine_standby (n : Nat) (f : Line → Line) : (modLine n f s).standby = s.standby := rfl
@[simp] theorem modLine_tick (n : Nat) (f : Line → Line) : (modLine n f s).tick = s.tick := rfl
@[simp] theorem modLine_tickPeriod (n : Nat) (f : Line → Line) : (modLine n f s).tickPeriod = s.tickPeriod := rfl
@[simp] theorem modLine_tuning (n : Nat) (f : Line → Line) : (modLine n f s).tuning = s.tuning := rfl
@[simp] theorem modLine_linkUp (n : Nat) (f : Line → Line) : (modLine n f s).linkUp = s.linkUp := rfl
@[simp] theorem modLine_silence (n : Nat) (f : Line → Line) : (modLine n f s).silence = s.silence := rfl
@[simp] theorem modLine_silenceDue (n : Nat) (f : Line → Line) : (modLine n f s).silenceDue = s.silenceDue := rfl
@[simp] theorem modLine_outq (n : Nat) (f : Line → Line) : (modLine n f s).outq = s.outq := rfl
@[simp] theorem modLine_tx (n : Nat) (f : Line → Line) : (modLine n f s).tx = s.tx := rfl
@[simp] theorem modLine_rx (n : Nat) (f : Line → Line) : (modLine n f s).rx = s.rx := rfl
@[simp] theorem modLine_lines (n : Nat) (f : Line → Line) : (modLine n f s).lines = s.lines.modify n f := rfl
@[simp] theorem modLine_hold (n : Nat) (f : Line → Line) : (modLine n f s).hold = s.hold := rfl
@[simp] theorem modLine_device (n : Nat) (f : Line → Line) : (modLine n f s).device = s.device := rfl
@[simp] theorem modLine_run (n : Nat) (f : Line → Line) : (modLine n f s).run = s.run := rfl
@[simp] theorem modLine_clearMode (n : Nat) (f : Line → Line) : (modLine n f s).clearMode = s.clearMode := rfl
@[simp] theorem modLine_events (n : Nat) (f : Line → Line) : (modLine n f s).events = s.events := rfl
@[simp] theorem modLine_eventMask (n : Nat) (f : Line → Line) : (modLine n f s).eventMask = s.eventMask := rfl
@[simp] theorem modLine_exchangeBase (n : Nat) (f : Line → Line) : (modLine n f s).exchangeBase = s.exchangeBase := rfl
@[simp] theorem modLine_kept (n : Nat) (f : Line → Line) : (modLine n f s).kept = s.kept := rfl
@[simp] theorem modLine_cursor (n : Nat) (f : Line → Line) : (modLine n f s).cursor = s.cursor := rfl
@[simp] theorem modLine_pollCount (n : Nat) (f : Line → Line) : (modLine n f s).pollCount = s.pollCount := rfl
@[simp] theorem modLine_pollDue (n : Nat) (f : Line → Line) : (modLine n f s).pollDue = s.pollDue := rfl
@[simp] theorem modLine_gap (n : Nat) (f : Line → Line) : (modLine n f s).gap = s.gap := rfl
@[simp] theorem modLine_mem (n : Nat) (f : Line → Line) : (modLine n f s).mem = s.mem := rfl
@[simp] theorem modLine_readData (n : Nat) (f : Line → Line) : (modLine n f s).readData = s.readData := rfl
@[simp] theorem modLine_bus (n : Nat) (f : Line → Line) : (modLine n f s).bus = s.bus := rfl
@[simp] theorem modLine_busCount (n : Nat) (f : Line → Line) : (modLine n f s).busCount = s.busCount := rfl
@[simp] theorem modLine_deferred (n : Nat) (f : Line → Line) : (modLine n f s).deferred = s.deferred := rfl
@[simp] theorem modLine_pending (n : Nat) (f : Line → Line) : (modLine n f s).pending = s.pending := rfl

/-! ## modQueue -/

@[simp] theorem modQueue_stackRecs (d : Nat) (f : List Nat → List Nat) : (modQueue d f s).stackRecs = s.stackRecs := rfl
@[simp] theorem modQueue_placeWait (d : Nat) (f : List Nat → List Nat) : (modQueue d f s).placeWait = s.placeWait := rfl
@[simp] theorem modQueue_relays (d : Nat) (f : List Nat → List Nat) : (modQueue d f s).relays = s.relays := rfl
@[simp] theorem modQueue_robots (d : Nat) (f : List Nat → List Nat) : (modQueue d f s).robots = s.robots := rfl
@[simp] theorem modQueue_standby (d : Nat) (f : List Nat → List Nat) : (modQueue d f s).standby = s.standby.modify (d - 1) f := rfl
@[simp] theorem modQueue_tick (d : Nat) (f : List Nat → List Nat) : (modQueue d f s).tick = s.tick := rfl
@[simp] theorem modQueue_tickPeriod (d : Nat) (f : List Nat → List Nat) : (modQueue d f s).tickPeriod = s.tickPeriod := rfl
@[simp] theorem modQueue_tuning (d : Nat) (f : List Nat → List Nat) : (modQueue d f s).tuning = s.tuning := rfl
@[simp] theorem modQueue_linkUp (d : Nat) (f : List Nat → List Nat) : (modQueue d f s).linkUp = s.linkUp := rfl
@[simp] theorem modQueue_silence (d : Nat) (f : List Nat → List Nat) : (modQueue d f s).silence = s.silence := rfl
@[simp] theorem modQueue_silenceDue (d : Nat) (f : List Nat → List Nat) : (modQueue d f s).silenceDue = s.silenceDue := rfl
@[simp] theorem modQueue_outq (d : Nat) (f : List Nat → List Nat) : (modQueue d f s).outq = s.outq := rfl
@[simp] theorem modQueue_tx (d : Nat) (f : List Nat → List Nat) : (modQueue d f s).tx = s.tx := rfl
@[simp] theorem modQueue_rx (d : Nat) (f : List Nat → List Nat) : (modQueue d f s).rx = s.rx := rfl
@[simp] theorem modQueue_lines (d : Nat) (f : List Nat → List Nat) : (modQueue d f s).lines = s.lines := rfl
@[simp] theorem modQueue_hold (d : Nat) (f : List Nat → List Nat) : (modQueue d f s).hold = s.hold := rfl
@[simp] theorem modQueue_device (d : Nat) (f : List Nat → List Nat) : (modQueue d f s).device = s.device := rfl
@[simp] theorem modQueue_run (d : Nat) (f : List Nat → List Nat) : (modQueue d f s).run = s.run := rfl
@[simp] theorem modQueue_clearMode (d : Nat) (f : List Nat → List Nat) : (modQueue d f s).clearMode = s.clearMode := rfl
@[simp] theorem modQueue_events (d : Nat) (f : List Nat → List Nat) : (modQueue d f s).events = s.events := rfl
@[simp] theorem modQueue_eventMask (d : Nat) (f : List Nat → List Nat) : (modQueue d f s).eventMask = s.eventMask := rfl
@[simp] theorem modQueue_exchangeBase (d : Nat) (f : List Nat → List Nat) : (modQueue d f s).exchangeBase = s.exchangeBase := rfl
@[simp] theorem modQueue_kept (d : Nat) (f : List Nat → List Nat) : (modQueue d f s).kept = s.kept := rfl
@[simp] theorem modQueue_cursor (d : Nat) (f : List Nat → List Nat) : (modQueue d f s).cursor = s.cursor := rfl
@[simp] theorem modQueue_pollCount (d : Nat) (f : List Nat → List Nat) : (modQueue d f s).pollCount = s.pollCount := rfl
@[simp] theorem modQueue_pollDue (d : Nat) (f : List Nat → List Nat) : (modQueue d f s).pollDue = s.pollDue := rfl
@[simp] theorem modQueue_gap (d : Nat) (f : List Nat → List Nat) : (modQueue d f s).gap = s.gap := rfl
@[simp] theorem modQueue_mem (d : Nat) (f : List Nat → List Nat) : (modQueue d f s).mem = s.mem := rfl
@[simp] theorem modQueue_readData (d : Nat) (f : List Nat → List Nat) : (modQueue d f s).readData = s.readData := rfl
@[simp] theorem modQueue_bus (d : Nat) (f : List Nat → List Nat) : (modQueue d f s).bus = s.bus := rfl
@[simp] theorem modQueue_busCount (d : Nat) (f : List Nat → List Nat) : (modQueue d f s).busCount = s.busCount := rfl
@[simp] theorem modQueue_deferred (d : Nat) (f : List Nat → List Nat) : (modQueue d f s).deferred = s.deferred := rfl
@[simp] theorem modQueue_pending (d : Nat) (f : List Nat → List Nat) : (modQueue d f s).pending = s.pending := rfl

/-! ## setEvent -/

@[simp] theorem setEvent_stackRecs (e : Event) : (setEvent e s).stackRecs = s.stackRecs := rfl
@[simp] theorem setEvent_placeWait (e : Event) : (setEvent e s).placeWait = s.placeWait := rfl
@[simp] theorem setEvent_relays (e : Event) : (setEvent e s).relays = s.relays := rfl
@[simp] theorem setEvent_robots (e : Event) : (setEvent e s).robots = s.robots := rfl
@[simp] theorem setEvent_standby (e : Event) : (setEvent e s).standby = s.standby := rfl
@[simp] theorem setEvent_tick (e : Event) : (setEvent e s).tick = s.tick := rfl
@[simp] theorem setEvent_tickPeriod (e : Event) : (setEvent e s).tickPeriod = s.tickPeriod := rfl
@[simp] theorem setEvent_tuning (e : Event) : (setEvent e s).tuning = s.tuning := rfl
@[simp] theorem setEvent_linkUp (e : Event) : (setEvent e s).linkUp = s.linkUp := rfl
@[simp] theorem setEvent_silence (e : Event) : (setEvent e s).silence = s.silence := rfl
@[simp] theorem setEvent_silenceDue (e : Event) : (setEvent e s).silenceDue = s.silenceDue := rfl
@[simp] theorem setEvent_outq (e : Event) : (setEvent e s).outq = s.outq := rfl
@[simp] theorem setEvent_tx (e : Event) : (setEvent e s).tx = s.tx := rfl
@[simp] theorem setEvent_rx (e : Event) : (setEvent e s).rx = s.rx := rfl
@[simp] theorem setEvent_lines (e : Event) : (setEvent e s).lines = s.lines := rfl
@[simp] theorem setEvent_hold (e : Event) : (setEvent e s).hold = s.hold := rfl
@[simp] theorem setEvent_device (e : Event) : (setEvent e s).device = s.device := rfl
@[simp] theorem setEvent_run (e : Event) : (setEvent e s).run = s.run := rfl
@[simp] theorem setEvent_clearMode (e : Event) : (setEvent e s).clearMode = s.clearMode := rfl
@[simp] theorem setEvent_events (e : Event) : (setEvent e s).events = s.events ||| e.bit := rfl
@[simp] theorem setEvent_eventMask (e : Event) : (setEvent e s).eventMask = s.eventMask := rfl
@[simp] theorem setEvent_exchangeBase (e : Event) : (setEvent e s).exchangeBase = s.exchangeBase := rfl
@[simp] theorem setEvent_kept (e : Event) : (setEvent e s).kept = s.kept := rfl
@[simp] theorem setEvent_cursor (e : Event) : (setEvent e s).cursor = s.cursor := rfl
@[simp] theorem setEvent_pollCount (e : Event) : (setEvent e s).pollCount = s.pollCount := rfl
@[simp] theorem setEvent_pollDue (e : Event) : (setEvent e s).pollDue = s.pollDue := rfl
@[simp] theorem setEvent_gap (e : Event) : (setEvent e s).gap = s.gap := rfl
@[simp] theorem setEvent_mem (e : Event) : (setEvent e s).mem = s.mem := rfl
@[simp] theorem setEvent_readData (e : Event) : (setEvent e s).readData = s.readData := rfl
@[simp] theorem setEvent_bus (e : Event) : (setEvent e s).bus = s.bus := rfl
@[simp] theorem setEvent_busCount (e : Event) : (setEvent e s).busCount = s.busCount := rfl
@[simp] theorem setEvent_deferred (e : Event) : (setEvent e s).deferred = s.deferred := rfl
@[simp] theorem setEvent_pending (e : Event) : (setEvent e s).pending = s.pending := rfl

/-! ## queueFrame -/

@[simp] theorem queueFrame_stackRecs (f : OutFrame) : (queueFrame f s).stackRecs = s.stackRecs := rfl
@[simp] theorem queueFrame_placeWait (f : OutFrame) : (queueFrame f s).placeWait = s.placeWait := rfl
@[simp] theorem queueFrame_relays (f : OutFrame) : (queueFrame f s).relays = s.relays := rfl
@[simp] theorem queueFrame_robots (f : OutFrame) : (queueFrame f s).robots = s.robots := rfl
@[simp] theorem queueFrame_standby (f : OutFrame) : (queueFrame f s).standby = s.standby := rfl
@[simp] theorem queueFrame_tick (f : OutFrame) : (queueFrame f s).tick = s.tick := rfl
@[simp] theorem queueFrame_tickPeriod (f : OutFrame) : (queueFrame f s).tickPeriod = s.tickPeriod := rfl
@[simp] theorem queueFrame_tuning (f : OutFrame) : (queueFrame f s).tuning = s.tuning := rfl
@[simp] theorem queueFrame_linkUp (f : OutFrame) : (queueFrame f s).linkUp = s.linkUp := rfl
@[simp] theorem queueFrame_silence (f : OutFrame) : (queueFrame f s).silence = s.silence := rfl
@[simp] theorem queueFrame_silenceDue (f : OutFrame) : (queueFrame f s).silenceDue = s.silenceDue := rfl
@[simp] theorem queueFrame_outq (f : OutFrame) : (queueFrame f s).outq = s.outq ++ [f] := rfl
@[simp] theorem queueFrame_tx (f : OutFrame) : (queueFrame f s).tx = s.tx := rfl
@[simp] theorem queueFrame_rx (f : OutFrame) : (queueFrame f s).rx = s.rx := rfl
@[simp] theorem queueFrame_lines (f : OutFrame) : (queueFrame f s).lines = s.lines := rfl
@[simp] theorem queueFrame_hold (f : OutFrame) : (queueFrame f s).hold = s.hold := rfl
@[simp] theorem queueFrame_device (f : OutFrame) : (queueFrame f s).device = s.device := rfl
@[simp] theorem queueFrame_run (f : OutFrame) : (queueFrame f s).run = s.run := rfl
@[simp] theorem queueFrame_clearMode (f : OutFrame) : (queueFrame f s).clearMode = s.clearMode := rfl
@[simp] theorem queueFrame_events (f : OutFrame) : (queueFrame f s).events = s.events := rfl
@[simp] theorem queueFrame_eventMask (f : OutFrame) : (queueFrame f s).eventMask = s.eventMask := rfl
@[simp] theorem queueFrame_exchangeBase (f : OutFrame) : (queueFrame f s).exchangeBase = s.exchangeBase := rfl
@[simp] theorem queueFrame_kept (f : OutFrame) : (queueFrame f s).kept = s.kept := rfl
@[simp] theorem queueFrame_cursor (f : OutFrame) : (queueFrame f s).cursor = s.cursor := rfl
@[simp] theorem queueFrame_pollCount (f : OutFrame) : (queueFrame f s).pollCount = s.pollCount := rfl
@[simp] theorem queueFrame_pollDue (f : OutFrame) : (queueFrame f s).pollDue = s.pollDue := rfl
@[simp] theorem queueFrame_gap (f : OutFrame) : (queueFrame f s).gap = s.gap := rfl
@[simp] theorem queueFrame_mem (f : OutFrame) : (queueFrame f s).mem = s.mem := rfl
@[simp] theorem queueFrame_readData (f : OutFrame) : (queueFrame f s).readData = s.readData := rfl
@[simp] theorem queueFrame_bus (f : OutFrame) : (queueFrame f s).bus = s.bus := rfl
@[simp] theorem queueFrame_busCount (f : OutFrame) : (queueFrame f s).busCount = s.busCount := rfl
@[simp] theorem queueFrame_deferred (f : OutFrame) : (queueFrame f s).deferred = s.deferred := rfl
@[simp] theorem queueFrame_pending (f : OutFrame) : (queueFrame f s).pending = s.pending := rfl

/-! ## removeUnsent -/

@[simp] theorem removeUnsent_stackRecs (p : OutFrame → Bool) : (removeUnsent p s).stackRecs = s.stackRecs := rfl
@[simp] theorem removeUnsent_placeWait (p : OutFrame → Bool) : (removeUnsent p s).placeWait = s.placeWait := rfl
@[simp] theorem removeUnsent_relays (p : OutFrame → Bool) : (removeUnsent p s).relays = s.relays := rfl
@[simp] theorem removeUnsent_robots (p : OutFrame → Bool) : (removeUnsent p s).robots = s.robots := rfl
@[simp] theorem removeUnsent_standby (p : OutFrame → Bool) : (removeUnsent p s).standby = s.standby := rfl
@[simp] theorem removeUnsent_tick (p : OutFrame → Bool) : (removeUnsent p s).tick = s.tick := rfl
@[simp] theorem removeUnsent_tickPeriod (p : OutFrame → Bool) : (removeUnsent p s).tickPeriod = s.tickPeriod := rfl
@[simp] theorem removeUnsent_tuning (p : OutFrame → Bool) : (removeUnsent p s).tuning = s.tuning := rfl
@[simp] theorem removeUnsent_linkUp (p : OutFrame → Bool) : (removeUnsent p s).linkUp = s.linkUp := rfl
@[simp] theorem removeUnsent_silence (p : OutFrame → Bool) : (removeUnsent p s).silence = s.silence := rfl
@[simp] theorem removeUnsent_silenceDue (p : OutFrame → Bool) : (removeUnsent p s).silenceDue = s.silenceDue := rfl
@[simp] theorem removeUnsent_tx (p : OutFrame → Bool) : (removeUnsent p s).tx = s.tx := rfl
@[simp] theorem removeUnsent_rx (p : OutFrame → Bool) : (removeUnsent p s).rx = s.rx := rfl
@[simp] theorem removeUnsent_lines (p : OutFrame → Bool) : (removeUnsent p s).lines = s.lines := rfl
@[simp] theorem removeUnsent_hold (p : OutFrame → Bool) : (removeUnsent p s).hold = s.hold := rfl
@[simp] theorem removeUnsent_device (p : OutFrame → Bool) : (removeUnsent p s).device = s.device := rfl
@[simp] theorem removeUnsent_run (p : OutFrame → Bool) : (removeUnsent p s).run = s.run := rfl
@[simp] theorem removeUnsent_clearMode (p : OutFrame → Bool) : (removeUnsent p s).clearMode = s.clearMode := rfl
@[simp] theorem removeUnsent_events (p : OutFrame → Bool) : (removeUnsent p s).events = s.events := rfl
@[simp] theorem removeUnsent_eventMask (p : OutFrame → Bool) : (removeUnsent p s).eventMask = s.eventMask := rfl
@[simp] theorem removeUnsent_exchangeBase (p : OutFrame → Bool) : (removeUnsent p s).exchangeBase = s.exchangeBase := rfl
@[simp] theorem removeUnsent_kept (p : OutFrame → Bool) : (removeUnsent p s).kept = s.kept := rfl
@[simp] theorem removeUnsent_cursor (p : OutFrame → Bool) : (removeUnsent p s).cursor = s.cursor := rfl
@[simp] theorem removeUnsent_pollCount (p : OutFrame → Bool) : (removeUnsent p s).pollCount = s.pollCount := rfl
@[simp] theorem removeUnsent_pollDue (p : OutFrame → Bool) : (removeUnsent p s).pollDue = s.pollDue := rfl
@[simp] theorem removeUnsent_gap (p : OutFrame → Bool) : (removeUnsent p s).gap = s.gap := rfl
@[simp] theorem removeUnsent_mem (p : OutFrame → Bool) : (removeUnsent p s).mem = s.mem := rfl
@[simp] theorem removeUnsent_readData (p : OutFrame → Bool) : (removeUnsent p s).readData = s.readData := rfl
@[simp] theorem removeUnsent_bus (p : OutFrame → Bool) : (removeUnsent p s).bus = s.bus := rfl
@[simp] theorem removeUnsent_busCount (p : OutFrame → Bool) : (removeUnsent p s).busCount = s.busCount := rfl
@[simp] theorem removeUnsent_deferred (p : OutFrame → Bool) : (removeUnsent p s).deferred = s.deferred := rfl
@[simp] theorem removeUnsent_pending (p : OutFrame → Bool) : (removeUnsent p s).pending = s.pending := rfl

/-! ## cutOff -/

@[simp] theorem cutOff_stackRecs : (cutOff s).stackRecs = s.stackRecs := rfl
@[simp] theorem cutOff_placeWait : (cutOff s).placeWait = s.placeWait := rfl
@[simp] theorem cutOff_relays : (cutOff s).relays = s.relays := rfl
@[simp] theorem cutOff_robots : (cutOff s).robots = s.robots := rfl
@[simp] theorem cutOff_standby : (cutOff s).standby = s.standby := rfl
@[simp] theorem cutOff_tick : (cutOff s).tick = s.tick := rfl
@[simp] theorem cutOff_tickPeriod : (cutOff s).tickPeriod = s.tickPeriod := rfl
@[simp] theorem cutOff_tuning : (cutOff s).tuning = s.tuning := rfl
@[simp] theorem cutOff_linkUp : (cutOff s).linkUp = s.linkUp := rfl
@[simp] theorem cutOff_silence : (cutOff s).silence = s.silence := rfl
@[simp] theorem cutOff_silenceDue : (cutOff s).silenceDue = s.silenceDue := rfl
@[simp] theorem cutOff_outq : (cutOff s).outq = s.outq := rfl
@[simp] theorem cutOff_tx : (cutOff s).tx = none := rfl
@[simp] theorem cutOff_rx : (cutOff s).rx = s.rx := rfl
@[simp] theorem cutOff_lines : (cutOff s).lines = s.lines := rfl
@[simp] theorem cutOff_hold : (cutOff s).hold = s.hold := rfl
@[simp] theorem cutOff_device : (cutOff s).device = s.device := rfl
@[simp] theorem cutOff_run : (cutOff s).run = s.run := rfl
@[simp] theorem cutOff_clearMode : (cutOff s).clearMode = s.clearMode := rfl
@[simp] theorem cutOff_events : (cutOff s).events = s.events := rfl
@[simp] theorem cutOff_eventMask : (cutOff s).eventMask = s.eventMask := rfl
@[simp] theorem cutOff_exchangeBase : (cutOff s).exchangeBase = s.exchangeBase := rfl
@[simp] theorem cutOff_kept : (cutOff s).kept = s.kept := rfl
@[simp] theorem cutOff_cursor : (cutOff s).cursor = s.cursor := rfl
@[simp] theorem cutOff_pollCount : (cutOff s).pollCount = s.pollCount := rfl
@[simp] theorem cutOff_pollDue : (cutOff s).pollDue = s.pollDue := rfl
@[simp] theorem cutOff_gap : (cutOff s).gap = s.gap := rfl
@[simp] theorem cutOff_mem : (cutOff s).mem = s.mem := rfl
@[simp] theorem cutOff_readData : (cutOff s).readData = s.readData := rfl
@[simp] theorem cutOff_bus : (cutOff s).bus = s.bus := rfl
@[simp] theorem cutOff_busCount : (cutOff s).busCount = s.busCount := rfl
@[simp] theorem cutOff_deferred : (cutOff s).deferred = s.deferred := rfl
@[simp] theorem cutOff_pending : (cutOff s).pending = s.pending := rfl

/-! ## dropWaits -/

@[simp] theorem dropWaits_placeWait (p : Access → Bool) : (dropWaits p s).placeWait = s.placeWait := rfl
@[simp] theorem dropWaits_relays (p : Access → Bool) : (dropWaits p s).relays = s.relays := rfl
@[simp] theorem dropWaits_robots (p : Access → Bool) : (dropWaits p s).robots = s.robots := rfl
@[simp] theorem dropWaits_standby (p : Access → Bool) : (dropWaits p s).standby = s.standby := rfl
@[simp] theorem dropWaits_tick (p : Access → Bool) : (dropWaits p s).tick = s.tick := rfl
@[simp] theorem dropWaits_tickPeriod (p : Access → Bool) : (dropWaits p s).tickPeriod = s.tickPeriod := rfl
@[simp] theorem dropWaits_tuning (p : Access → Bool) : (dropWaits p s).tuning = s.tuning := rfl
@[simp] theorem dropWaits_linkUp (p : Access → Bool) : (dropWaits p s).linkUp = s.linkUp := rfl
@[simp] theorem dropWaits_silence (p : Access → Bool) : (dropWaits p s).silence = s.silence := rfl
@[simp] theorem dropWaits_silenceDue (p : Access → Bool) : (dropWaits p s).silenceDue = s.silenceDue := rfl
@[simp] theorem dropWaits_outq (p : Access → Bool) : (dropWaits p s).outq = s.outq := rfl
@[simp] theorem dropWaits_tx (p : Access → Bool) : (dropWaits p s).tx = s.tx := rfl
@[simp] theorem dropWaits_rx (p : Access → Bool) : (dropWaits p s).rx = s.rx := rfl
@[simp] theorem dropWaits_lines (p : Access → Bool) : (dropWaits p s).lines = s.lines := rfl
@[simp] theorem dropWaits_hold (p : Access → Bool) : (dropWaits p s).hold = s.hold := rfl
@[simp] theorem dropWaits_device (p : Access → Bool) : (dropWaits p s).device = s.device := rfl
@[simp] theorem dropWaits_run (p : Access → Bool) : (dropWaits p s).run = s.run := rfl
@[simp] theorem dropWaits_clearMode (p : Access → Bool) : (dropWaits p s).clearMode = s.clearMode := rfl
@[simp] theorem dropWaits_events (p : Access → Bool) : (dropWaits p s).events = s.events := rfl
@[simp] theorem dropWaits_eventMask (p : Access → Bool) : (dropWaits p s).eventMask = s.eventMask := rfl
@[simp] theorem dropWaits_exchangeBase (p : Access → Bool) : (dropWaits p s).exchangeBase = s.exchangeBase := rfl
@[simp] theorem dropWaits_kept (p : Access → Bool) : (dropWaits p s).kept = s.kept := rfl
@[simp] theorem dropWaits_cursor (p : Access → Bool) : (dropWaits p s).cursor = s.cursor := rfl
@[simp] theorem dropWaits_pollCount (p : Access → Bool) : (dropWaits p s).pollCount = s.pollCount := rfl
@[simp] theorem dropWaits_pollDue (p : Access → Bool) : (dropWaits p s).pollDue = s.pollDue := rfl
@[simp] theorem dropWaits_gap (p : Access → Bool) : (dropWaits p s).gap = s.gap := rfl
@[simp] theorem dropWaits_mem (p : Access → Bool) : (dropWaits p s).mem = s.mem := rfl
@[simp] theorem dropWaits_readData (p : Access → Bool) : (dropWaits p s).readData = s.readData := rfl
@[simp] theorem dropWaits_bus (p : Access → Bool) : (dropWaits p s).bus = s.bus := rfl
@[simp] theorem dropWaits_busCount (p : Access → Bool) : (dropWaits p s).busCount = s.busCount := rfl
@[simp] theorem dropWaits_deferred (p : Access → Bool) : (dropWaits p s).deferred = s.deferred := rfl
@[simp] theorem dropWaits_pending (p : Access → Bool) : (dropWaits p s).pending = s.pending := rfl

/-! ## removeRelay -/

@[simp] theorem removeRelay_stackRecs (t : Tag) : (removeRelay t s).stackRecs = s.stackRecs := rfl
@[simp] theorem removeRelay_placeWait (t : Tag) : (removeRelay t s).placeWait = s.placeWait := rfl
@[simp] theorem removeRelay_relays (t : Tag) : (removeRelay t s).relays = s.relays.filter fun r => r.tag != t := rfl
@[simp] theorem removeRelay_robots (t : Tag) : (removeRelay t s).robots = s.robots := rfl
@[simp] theorem removeRelay_standby (t : Tag) : (removeRelay t s).standby = s.standby := rfl
@[simp] theorem removeRelay_tick (t : Tag) : (removeRelay t s).tick = s.tick := rfl
@[simp] theorem removeRelay_tickPeriod (t : Tag) : (removeRelay t s).tickPeriod = s.tickPeriod := rfl
@[simp] theorem removeRelay_tuning (t : Tag) : (removeRelay t s).tuning = s.tuning := rfl
@[simp] theorem removeRelay_linkUp (t : Tag) : (removeRelay t s).linkUp = s.linkUp := rfl
@[simp] theorem removeRelay_silence (t : Tag) : (removeRelay t s).silence = s.silence := rfl
@[simp] theorem removeRelay_silenceDue (t : Tag) : (removeRelay t s).silenceDue = s.silenceDue := rfl
@[simp] theorem removeRelay_outq (t : Tag) : (removeRelay t s).outq = s.outq := rfl
@[simp] theorem removeRelay_tx (t : Tag) : (removeRelay t s).tx = s.tx := rfl
@[simp] theorem removeRelay_rx (t : Tag) : (removeRelay t s).rx = s.rx := rfl
@[simp] theorem removeRelay_lines (t : Tag) : (removeRelay t s).lines = s.lines := rfl
@[simp] theorem removeRelay_hold (t : Tag) : (removeRelay t s).hold = s.hold := rfl
@[simp] theorem removeRelay_device (t : Tag) : (removeRelay t s).device = s.device := rfl
@[simp] theorem removeRelay_run (t : Tag) : (removeRelay t s).run = s.run := rfl
@[simp] theorem removeRelay_clearMode (t : Tag) : (removeRelay t s).clearMode = s.clearMode := rfl
@[simp] theorem removeRelay_events (t : Tag) : (removeRelay t s).events = s.events := rfl
@[simp] theorem removeRelay_eventMask (t : Tag) : (removeRelay t s).eventMask = s.eventMask := rfl
@[simp] theorem removeRelay_exchangeBase (t : Tag) : (removeRelay t s).exchangeBase = s.exchangeBase := rfl
@[simp] theorem removeRelay_kept (t : Tag) : (removeRelay t s).kept = s.kept := rfl
@[simp] theorem removeRelay_cursor (t : Tag) : (removeRelay t s).cursor = s.cursor := rfl
@[simp] theorem removeRelay_pollCount (t : Tag) : (removeRelay t s).pollCount = s.pollCount := rfl
@[simp] theorem removeRelay_pollDue (t : Tag) : (removeRelay t s).pollDue = s.pollDue := rfl
@[simp] theorem removeRelay_gap (t : Tag) : (removeRelay t s).gap = s.gap := rfl
@[simp] theorem removeRelay_mem (t : Tag) : (removeRelay t s).mem = s.mem := rfl
@[simp] theorem removeRelay_readData (t : Tag) : (removeRelay t s).readData = s.readData := rfl
@[simp] theorem removeRelay_bus (t : Tag) : (removeRelay t s).bus = s.bus := rfl
@[simp] theorem removeRelay_busCount (t : Tag) : (removeRelay t s).busCount = s.busCount := rfl
@[simp] theorem removeRelay_deferred (t : Tag) : (removeRelay t s).deferred = s.deferred := rfl
@[simp] theorem removeRelay_pending (t : Tag) : (removeRelay t s).pending = s.pending := rfl

/-! ## topReport -/

@[simp] theorem topReport_stackRecs (i : Nat) : (topReport i s).stackRecs = s.stackRecs := rfl
@[simp] theorem topReport_placeWait (i : Nat) : (topReport i s).placeWait = s.placeWait := rfl
@[simp] theorem topReport_relays (i : Nat) : (topReport i s).relays = s.relays.map (Relay.onTopReport s.tuning i (getStack s i)) := rfl
@[simp] theorem topReport_robots (i : Nat) : (topReport i s).robots = s.robots := rfl
@[simp] theorem topReport_standby (i : Nat) : (topReport i s).standby = s.standby := rfl
@[simp] theorem topReport_tick (i : Nat) : (topReport i s).tick = s.tick := rfl
@[simp] theorem topReport_tickPeriod (i : Nat) : (topReport i s).tickPeriod = s.tickPeriod := rfl
@[simp] theorem topReport_tuning (i : Nat) : (topReport i s).tuning = s.tuning := rfl
@[simp] theorem topReport_linkUp (i : Nat) : (topReport i s).linkUp = s.linkUp := rfl
@[simp] theorem topReport_silence (i : Nat) : (topReport i s).silence = s.silence := rfl
@[simp] theorem topReport_silenceDue (i : Nat) : (topReport i s).silenceDue = s.silenceDue := rfl
@[simp] theorem topReport_outq (i : Nat) : (topReport i s).outq = s.outq := rfl
@[simp] theorem topReport_tx (i : Nat) : (topReport i s).tx = s.tx := rfl
@[simp] theorem topReport_rx (i : Nat) : (topReport i s).rx = s.rx := rfl
@[simp] theorem topReport_lines (i : Nat) : (topReport i s).lines = s.lines := rfl
@[simp] theorem topReport_hold (i : Nat) : (topReport i s).hold = s.hold := rfl
@[simp] theorem topReport_device (i : Nat) : (topReport i s).device = s.device := rfl
@[simp] theorem topReport_run (i : Nat) : (topReport i s).run = s.run := rfl
@[simp] theorem topReport_clearMode (i : Nat) : (topReport i s).clearMode = s.clearMode := rfl
@[simp] theorem topReport_events (i : Nat) : (topReport i s).events = s.events := rfl
@[simp] theorem topReport_eventMask (i : Nat) : (topReport i s).eventMask = s.eventMask := rfl
@[simp] theorem topReport_exchangeBase (i : Nat) : (topReport i s).exchangeBase = s.exchangeBase := rfl
@[simp] theorem topReport_kept (i : Nat) : (topReport i s).kept = s.kept := rfl
@[simp] theorem topReport_cursor (i : Nat) : (topReport i s).cursor = s.cursor := rfl
@[simp] theorem topReport_pollCount (i : Nat) : (topReport i s).pollCount = s.pollCount := rfl
@[simp] theorem topReport_pollDue (i : Nat) : (topReport i s).pollDue = s.pollDue := rfl
@[simp] theorem topReport_gap (i : Nat) : (topReport i s).gap = s.gap := rfl
@[simp] theorem topReport_mem (i : Nat) : (topReport i s).mem = s.mem := rfl
@[simp] theorem topReport_readData (i : Nat) : (topReport i s).readData = s.readData := rfl
@[simp] theorem topReport_bus (i : Nat) : (topReport i s).bus = s.bus := rfl
@[simp] theorem topReport_busCount (i : Nat) : (topReport i s).busCount = s.busCount := rfl
@[simp] theorem topReport_deferred (i : Nat) : (topReport i s).deferred = s.deferred := rfl
@[simp] theorem topReport_pending (i : Nat) : (topReport i s).pending = s.pending := rfl

/-! ## countAccess -/

@[simp] theorem countAccess_stackRecs : (countAccess s).stackRecs = s.stackRecs := rfl
@[simp] theorem countAccess_placeWait : (countAccess s).placeWait = s.placeWait := rfl
@[simp] theorem countAccess_relays : (countAccess s).relays = s.relays := rfl
@[simp] theorem countAccess_robots : (countAccess s).robots = s.robots := rfl
@[simp] theorem countAccess_standby : (countAccess s).standby = s.standby := rfl
@[simp] theorem countAccess_tick : (countAccess s).tick = s.tick := rfl
@[simp] theorem countAccess_tickPeriod : (countAccess s).tickPeriod = s.tickPeriod := rfl
@[simp] theorem countAccess_tuning : (countAccess s).tuning = s.tuning := rfl
@[simp] theorem countAccess_linkUp : (countAccess s).linkUp = s.linkUp := rfl
@[simp] theorem countAccess_silence : (countAccess s).silence = s.silence := rfl
@[simp] theorem countAccess_silenceDue : (countAccess s).silenceDue = s.silenceDue := rfl
@[simp] theorem countAccess_outq : (countAccess s).outq = s.outq := rfl
@[simp] theorem countAccess_tx : (countAccess s).tx = s.tx := rfl
@[simp] theorem countAccess_rx : (countAccess s).rx = s.rx := rfl
@[simp] theorem countAccess_lines : (countAccess s).lines = s.lines := rfl
@[simp] theorem countAccess_hold : (countAccess s).hold = s.hold := rfl
@[simp] theorem countAccess_device : (countAccess s).device = s.device := rfl
@[simp] theorem countAccess_run : (countAccess s).run = s.run := rfl
@[simp] theorem countAccess_clearMode : (countAccess s).clearMode = s.clearMode := rfl
@[simp] theorem countAccess_events : (countAccess s).events = s.events := rfl
@[simp] theorem countAccess_eventMask : (countAccess s).eventMask = s.eventMask := rfl
@[simp] theorem countAccess_exchangeBase : (countAccess s).exchangeBase = s.exchangeBase := rfl
@[simp] theorem countAccess_kept : (countAccess s).kept = s.kept := rfl
@[simp] theorem countAccess_cursor : (countAccess s).cursor = s.cursor := rfl
@[simp] theorem countAccess_pollCount : (countAccess s).pollCount = s.pollCount := rfl
@[simp] theorem countAccess_pollDue : (countAccess s).pollDue = s.pollDue := rfl
@[simp] theorem countAccess_gap : (countAccess s).gap = s.gap := rfl
@[simp] theorem countAccess_readData : (countAccess s).readData = s.readData := rfl
@[simp] theorem countAccess_busCount : (countAccess s).busCount = s.busCount + 1 := rfl
@[simp] theorem countAccess_deferred : (countAccess s).deferred = s.deferred := rfl
@[simp] theorem countAccess_pending : (countAccess s).pending = s.pending := rfl

/-! ## beginBus -/

@[simp] theorem beginBus_stackRecs (b : Bus) : (beginBus b s).stackRecs = s.stackRecs := rfl
@[simp] theorem beginBus_placeWait (b : Bus) : (beginBus b s).placeWait = s.placeWait := rfl
@[simp] theorem beginBus_relays (b : Bus) : (beginBus b s).relays = s.relays := rfl
@[simp] theorem beginBus_robots (b : Bus) : (beginBus b s).robots = s.robots := rfl
@[simp] theorem beginBus_standby (b : Bus) : (beginBus b s).standby = s.standby := rfl
@[simp] theorem beginBus_tick (b : Bus) : (beginBus b s).tick = s.tick := rfl
@[simp] theorem beginBus_tickPeriod (b : Bus) : (beginBus b s).tickPeriod = s.tickPeriod := rfl
@[simp] theorem beginBus_tuning (b : Bus) : (beginBus b s).tuning = s.tuning := rfl
@[simp] theorem beginBus_linkUp (b : Bus) : (beginBus b s).linkUp = s.linkUp := rfl
@[simp] theorem beginBus_silence (b : Bus) : (beginBus b s).silence = s.silence := rfl
@[simp] theorem beginBus_silenceDue (b : Bus) : (beginBus b s).silenceDue = s.silenceDue := rfl
@[simp] theorem beginBus_outq (b : Bus) : (beginBus b s).outq = s.outq := rfl
@[simp] theorem beginBus_tx (b : Bus) : (beginBus b s).tx = s.tx := rfl
@[simp] theorem beginBus_rx (b : Bus) : (beginBus b s).rx = s.rx := rfl
@[simp] theorem beginBus_lines (b : Bus) : (beginBus b s).lines = s.lines := rfl
@[simp] theorem beginBus_hold (b : Bus) : (beginBus b s).hold = s.hold := rfl
@[simp] theorem beginBus_device (b : Bus) : (beginBus b s).device = s.device := rfl
@[simp] theorem beginBus_run (b : Bus) : (beginBus b s).run = s.run := rfl
@[simp] theorem beginBus_clearMode (b : Bus) : (beginBus b s).clearMode = s.clearMode := rfl
@[simp] theorem beginBus_events (b : Bus) : (beginBus b s).events = s.events := rfl
@[simp] theorem beginBus_eventMask (b : Bus) : (beginBus b s).eventMask = s.eventMask := rfl
@[simp] theorem beginBus_exchangeBase (b : Bus) : (beginBus b s).exchangeBase = s.exchangeBase := rfl
@[simp] theorem beginBus_kept (b : Bus) : (beginBus b s).kept = s.kept := rfl
@[simp] theorem beginBus_cursor (b : Bus) : (beginBus b s).cursor = s.cursor := rfl
@[simp] theorem beginBus_pollCount (b : Bus) : (beginBus b s).pollCount = s.pollCount := rfl
@[simp] theorem beginBus_pollDue (b : Bus) : (beginBus b s).pollDue = s.pollDue := rfl
@[simp] theorem beginBus_gap (b : Bus) : (beginBus b s).gap = s.gap := rfl
@[simp] theorem beginBus_mem (b : Bus) : (beginBus b s).mem = s.mem := rfl
@[simp] theorem beginBus_readData (b : Bus) : (beginBus b s).readData = s.readData := rfl
@[simp] theorem beginBus_bus (b : Bus) : (beginBus b s).bus = b := rfl
@[simp] theorem beginBus_busCount (b : Bus) : (beginBus b s).busCount = 0 := rfl
@[simp] theorem beginBus_deferred (b : Bus) : (beginBus b s).deferred = s.deferred := rfl
@[simp] theorem beginBus_pending (b : Bus) : (beginBus b s).pending = s.pending := rfl

/-! ## endBus -/

@[simp] theorem endBus_stackRecs : (endBus s).stackRecs = s.stackRecs := rfl
@[simp] theorem endBus_placeWait : (endBus s).placeWait = s.placeWait := rfl
@[simp] theorem endBus_relays : (endBus s).relays = s.relays := rfl
@[simp] theorem endBus_robots : (endBus s).robots = s.robots := rfl
@[simp] theorem endBus_standby : (endBus s).standby = s.standby := rfl
@[simp] theorem endBus_tick : (endBus s).tick = s.tick := rfl
@[simp] theorem endBus_tickPeriod : (endBus s).tickPeriod = s.tickPeriod := rfl
@[simp] theorem endBus_tuning : (endBus s).tuning = s.tuning := rfl
@[simp] theorem endBus_linkUp : (endBus s).linkUp = s.linkUp := rfl
@[simp] theorem endBus_silence : (endBus s).silence = s.silence := rfl
@[simp] theorem endBus_silenceDue : (endBus s).silenceDue = s.silenceDue := rfl
@[simp] theorem endBus_outq : (endBus s).outq = s.outq := rfl
@[simp] theorem endBus_tx : (endBus s).tx = s.tx := rfl
@[simp] theorem endBus_rx : (endBus s).rx = s.rx := rfl
@[simp] theorem endBus_lines : (endBus s).lines = s.lines := rfl
@[simp] theorem endBus_hold : (endBus s).hold = s.hold := rfl
@[simp] theorem endBus_device : (endBus s).device = s.device := rfl
@[simp] theorem endBus_run : (endBus s).run = s.run := rfl
@[simp] theorem endBus_clearMode : (endBus s).clearMode = s.clearMode := rfl
@[simp] theorem endBus_events : (endBus s).events = s.events := rfl
@[simp] theorem endBus_eventMask : (endBus s).eventMask = s.eventMask := rfl
@[simp] theorem endBus_exchangeBase : (endBus s).exchangeBase = s.exchangeBase := rfl
@[simp] theorem endBus_kept : (endBus s).kept = s.kept := rfl
@[simp] theorem endBus_cursor : (endBus s).cursor = s.cursor := rfl
@[simp] theorem endBus_pollCount : (endBus s).pollCount = s.pollCount := rfl
@[simp] theorem endBus_pollDue : (endBus s).pollDue = s.pollDue := rfl
@[simp] theorem endBus_gap : (endBus s).gap = s.gap := rfl
@[simp] theorem endBus_mem : (endBus s).mem = Memory.hostWrites s.mem s.bus.writes := rfl
@[simp] theorem endBus_readData : (endBus s).readData = s.readData := rfl
@[simp] theorem endBus_bus : (endBus s).bus = {} := rfl
@[simp] theorem endBus_busCount : (endBus s).busCount = 0 := rfl
@[simp] theorem endBus_deferred : (endBus s).deferred = s.deferred := rfl
@[simp] theorem endBus_pending : (endBus s).pending = s.pending := rfl

/-! ## Commands with a bus operand -/

@[simp] theorem inForce_of_no_reset {bus : Bus} (h : bus.reset = none) : inForce bus = bus := by simp [inForce, h]

@[simp] theorem finishBus_of_no_reset {bus : Bus} (h : bus.reset = none) : finishBus bus s = endBus s := by
  simp [finishBus, h]

/-- A command during which no reset arrives runs its rule between the begin and the end of its bus operand. -/
theorem withBus_of_no_reset {bus : Bus} (h : bus.reset = none) (f : State → State) :
    withBus bus f s = .next (endBus (f (beginBus bus s))) := by simp [withBus, h]

/-- A command during which a reset arrives ends with that reset. -/
theorem withBus_of_reset {bus : Bus} {r : ArrivingReset} (h : bus.reset = some r) (f : State → State) :
    withBus bus f s = .next (applyReset r.kind (endBus (f (beginBus (inForce bus) s)))) := by
  simp [withBus, finishBus, h]

end Sys2Proof.Machine
end

