-- ==== Sys2Proof/Laws/Tables.lean ====
section
/-!
SUPPORT. What a look-up in a table gives after a change of that table, and what the Exchange Port's writes leave in every
field that is not the port's.
-/

namespace Sys2Proof.Machine

variable (s : State)

/-! ## Look-ups -/

theorem getStack_modStack (i j : Nat) (f : StackRec → StackRec) :
    getStack (modStack i f s) j = if i = j ∧ j < s.stackRecs.length then f (getStack s j) else getStack s j := by
  unfold getStack
  by_cases h : j < s.stackRecs.length
  · by_cases e : i = j <;> simp [h, e]
  · simp [h]

theorem getStack_modStack_other {i j : Nat} (f : StackRec → StackRec) (h : i ≠ j) :
    getStack (modStack i f s) j = getStack s j := by rw [getStack_modStack]; simp [h]

theorem getLine_modLine (i j : Nat) (f : Line → Line) :
    getLine (modLine i f s) j = if i = j ∧ j < s.lines.length then f (getLine s j) else getLine s j := by
  unfold getLine
  by_cases h : j < s.lines.length
  · by_cases e : i = j <;> simp [h, e]
  · simp [h]

/-- A map that keeps ids keeps the context found for an id. -/
theorem find_map_id (l : List Robot) (g : Robot → Robot) (hg : ∀ c, (g c).id = c.id) (r : Nat) :
    (l.map g).find? (fun c => c.id == r) = (l.find? fun c => c.id == r).map g := by
  induction l with
  | nil => rfl
  | cons c l ih => simp only [List.map_cons, List.find?_cons, hg]; split <;> simp [ih]

/-- A map that keeps tags keeps the relay found for a tag. -/
theorem find_map_tag (l : List Relay) (g : Relay → Relay) (hg : ∀ r, (g r).tag = r.tag) (t : Tag) :
    (l.map g).find? (fun r => r.tag == t) = (l.find? fun r => r.tag == t).map g := by
  induction l with
  | nil => rfl
  | cons r l ih => simp only [List.map_cons, List.find?_cons, hg]; split <;> simp [ih]

theorem getRobot_id {s : State} {r : Nat} {c : Robot} (h : getRobot s r = some c) : c.id = r := by
  simpa using List.find?_some h

theorem getRelay_tag {s : State} {t : Tag} {r : Relay} (h : getRelay s t = some r) : r.tag = t := by
  simpa using List.find?_some h

theorem getRobot_modRobot (r r' : Nat) (f : Robot → Robot) (hf : ∀ c, (f c).id = c.id) :
    getRobot (modRobot r f s) r' = (getRobot s r').map fun c => if r' = r then f c else c := by
  have h := find_map_id s.robots (fun c => if c.id = r then f c else c) (fun c => by split <;> simp [hf]) r'
  unfold getRobot
  rw [modRobot_robots, h]
  refine Option.map_congr fun c hc => ?_
  rw [show c.id = r' by simpa using List.find?_some hc]

theorem getRelay_modRelay (t t' : Tag) (f : Relay → Relay) (hf : ∀ r, (f r).tag = r.tag) :
    getRelay (modRelay t f s) t' = (getRelay s t').map fun r => if t' = t then f r else r := by
  have h := find_map_tag s.relays (fun r => if r.tag = t then f r else r) (fun r => by split <;> simp [hf]) t'
  unfold getRelay
  rw [modRelay_relays, h]
  refine Option.map_congr fun r hr => ?_
  rw [show r.tag = t' by simpa using List.find?_some hr]

@[simp] theorem getRelay_removeRelay (t : Tag) : getRelay (removeRelay t s) t = none := by
  simp [getRelay]

theorem getRelay_removeRelay_other {t t' : Tag} (h : t' ≠ t) : getRelay (removeRelay t s) t' = getRelay s t' := by
  unfold getRelay
  rw [removeRelay_relays, List.find?_filter]
  congr 1; funext r
  by_cases e : r.tag = t' <;> simp_all

/-! ## The part that the Exchange Port does not write -/

/-- The state with the Exchange Port's own part blanked: memory, bus, ring, gap, events and device state. -/
def portless : State :=
  { s with mem := [], bus := {}, busCount := 0, kept := none, gap := none, events := 0#32, device := .idle }

/-- The Exchange Port's updates leave every other field. -/
theorem portless_port : Port fun s' => portless s' = portless s := by constructor <;> (intros; assumption)

/-- A field that is not the port's is the same when the rest of the state is. -/
theorem portless_field {α : Type} {s s' : State} (f : State → α) (h : portless s' = portless s)
    (hf : ∀ s, f (portless s) = f s) : f s' = f s := by rw [← hf s', h, hf]

theorem notify_portless (n : Notice) : portless (notify n s) = portless s := notify_port (portless_port s) n rfl
theorem endRelaySlot_portless (slot : Nat) (t : Tag) (b : BinId) (o : Outcome) :
    portless (endRelaySlot slot t b o s) = portless s := endRelaySlot_port (portless_port s) slot t b o rfl
theorem endRequest_portless (slot : Nat) (t : Tag) (c : Code) : portless (endRequest slot t c s) = portless s :=
  endRequest_port (portless_port s) slot t c rfl
theorem writeImage_portless : portless (writeImage s) = portless s := writeImage_port (portless_port s) rfl

variable (n : Notice)

@[simp] theorem notify_stackRecs : (notify n s).stackRecs = s.stackRecs :=
  portless_field State.stackRecs (notify_portless s n) fun _ => rfl
@[simp] theorem notify_placeWait : (notify n s).placeWait = s.placeWait :=
  portless_field State.placeWait (notify_portless s n) fun _ => rfl
@[simp] theorem notify_relays : (notify n s).relays = s.relays := portless_field State.relays (notify_portless s n) fun _ => rfl
@[simp] theorem notify_robots : (notify n s).robots = s.robots := portless_field State.robots (notify_portless s n) fun _ => rfl
@[simp] theorem notify_standby : (notify n s).standby = s.standby := portless_field State.standby (notify_portless s n) fun _ => rfl
@[simp] theorem notify_tick : (notify n s).tick = s.tick := portless_field State.tick (notify_portless s n) fun _ => rfl
@[simp] theorem notify_tuning : (notify n s).tuning = s.tuning := portless_field State.tuning (notify_portless s n) fun _ => rfl
@[simp] theorem notify_linkUp : (notify n s).linkUp = s.linkUp := portless_field State.linkUp (notify_portless s n) fun _ => rfl
@[simp] theorem notify_outq : (notify n s).outq = s.outq := portless_field State.outq (notify_portless s n) fun _ => rfl
@[simp] theorem notify_lines : (notify n s).lines = s.lines := portless_field State.lines (notify_portless s n) fun _ => rfl
@[simp] theorem notify_deferred : (notify n s).deferred = s.deferred := portless_field State.deferred (notify_portless s n) fun _ => rfl
@[simp] theorem writeImage_lines : (writeImage s).lines = s.lines := portless_field State.lines (writeImage_portless s) fun _ => rfl

/-! ## Relays that are no longer held -/

/-- An event for a relay no longer held has no effect (R65). -/
theorem onRelay_none {s : State} {t : Tag} (f : Relay → State → State) (h : getRelay s t = none) :
    onRelay t f s = s := by unfold onRelay; rw [h]

theorem onRelay_some {s : State} {t : Tag} {r : Relay} (f : Relay → State → State) (h : getRelay s t = some r) :
    onRelay t f s = f r s := by unfold onRelay; rw [h]

/-- After its teardown a relay is no longer held (R65). -/
theorem getRelay_teardown (t : Tag) (code : Code) : getRelay (teardown t code s) t = none := by
  unfold teardown onRelay; split
  · exact getRelay_removeRelay _ _
  · assumption

end Sys2Proof.Machine
end

