-- ==== Sys2Proof/Tests/Slice0.lean ====
section
/-!
SUPPORT. Tests: the checks of WellFormed refuse an ill-formed command each; worked cases of the manual, each on one step
or one operation; and, for each statement with hypotheses, states and operands that meet them, clause by clause.
-/

namespace Sys2Proof.Tests

open Sys2Proof Sys2Proof.Machine

set_option Elab.async false

/-! ## Ill-formed commands -/

theorem test_debounceExpiry_line_32_refused : (Instr.debounceExpiry 32 {}).wellFormed = false := by decide

theorem test_rawLineChange_line_32_refused : (Instr.rawLineChange 32 true {}).wellFormed = false := by decide

theorem test_registerWrite_offset_6_refused : (Instr.registerWrite 6 0#64 {}).wellFormed = false := by decide

theorem test_badFrame_without_bytes_refused : (Instr.badFrame [] {}).wellFormed = false := by decide

theorem test_well_formed_at_the_bounds :
    (Instr.debounceExpiry 31 {}).wellFormed = true ∧ (Instr.rawLineChange 0 true {}).wellFormed = true ∧
    (Instr.registerWrite 0x20 0#64 {}).wellFormed = true ∧ (Instr.badFrame [0#8] {}).wellFormed = true := by decide

/-! ## Small states -/

/-- The header values of a part that runs: 16 slots at 8192, a ring of 64 at 65536. -/
def kept : Kept :=
  { slotCount := 16, slotBase := 8192, noticeCount := 64, ringBase := 65536, pollInterval := 5, firstSlot := 0
    writeIndex := 0, takeIndex := 0 }

/-- The relay with tag 5 in slot 3, at hop 1 of 2, from robot 1 to robot 2, with its bin 9. -/
def relay : Relay :=
  { tag := 5#32, slot := 3, bin := 9#32, cls := .chilled, budget := 10, due := 800#32, reference := none
    timingSet := 0, strictLoad := false, allowShuffle := true, abortOnExposure := false, path := [1, 2, 3]
    takers := [some 2, none], origin := .robot 1, flags := {}, carried := false, lastHolder := some 1, hop := 1
    give := { state := .placing, robot := some 1, stepStack := none, timer := none }
    take := { state := .idle, robot := some 2, stepStack := none, timer := none }
    binding := none, refused := none, giveRefusals := 0, liftRefusals := 0, endPending := none, clock := none
    shuffle := none }

/-- A robot of a district, lent as given. -/
def robot (id district : Nat) (state : RobotState) (lent : LentTo) : Robot :=
  { id := id, district := district, offset := 0, gain := 256, format := .right, state := state, lentTo := lent
    heldBin := none, cell := none, step := none, nextSeq := 0#8, accessHeld := none }

/-- Robot 1, the giver. -/
def giver : Robot := { robot 1 1 .lent (.relay 5#32) with heldBin := some 9#32 }

/-- Robot 2, the taker. -/
def taker : Robot := robot 2 2 .lent (.relay 5#32)

/-- An open step of number 7. -/
def openStepOf (kind : StepKind) : Machine.Step := { seq := 7#8, kind := kind, x := 1, y := 2, level := 0, bin := 9#32 }

/-- A stack between districts 1 and 2. -/
def stack : StackRec := { x := 12, y := 4, sideA := 1, sideB := 2, capacity := 4, zone := .chilled, state := .active }

/-- Bin 9 of relay 5 at rest, bound for district 2. -/
def bin9 : RestEntry := { bin := 9#32, owner := some 5#32, bound := some .b }

/-- An orphan bin. -/
def orphan : RestEntry := { bin := 4#32, owner := none, bound := none }

/-- A running part with one relay, its two robots, and one stack at each end of the table. -/
def running : State :=
  { State.reset with
    device := .running, run := true, linkUp := true, exchangeBase := 4096#64, kept := some kept
    cursor := some (.before 0), tickPeriod := some 1, relays := [relay], robots := [giver, taker]
    stackRecs := stack :: List.replicate 62 {} ++ [stack] }

/-- The running part with its relay changed. -/
def withRelay (r : Relay) : State := { running with relays := [r] }

/-- The running part with its relay and robots changed. -/
def withRobots (r : Relay) (g t : Robot) : State := { running with relays := [r], robots := [g, t] }

/-- The running part with stack 0 changed. -/
def withStack (k : StackRec) (s : State) : State := { s with stackRecs := s.stackRecs.set 0 k }

/-- A running timer of a phase whose warn and limit have both arisen. -/
def dueTimer (p : Phase) : Timer :=
  { phase := p, count := 6, warn := 3, limit := 6, warned := true, running := false, warnDue := true, limitDue := true }

/-- The give side with a state, step stack and timer. -/
def giveSide (st : GiveState) (stack : Option Nat) (m : Option Timer) : GiveSide :=
  { state := st, robot := some 1, stepStack := stack, timer := m }

/-- The take side with a state, step stack and timer. -/
def takeSide (st : TakeState) (stack : Option Nat) (m : Option Timer) : TakeSide :=
  { state := st, robot := some 2, stepStack := stack, timer := m }

/-- A slot's first bytes in host memory: the ownership and the link. -/
def slotAt (i : Nat) (own : Byte) (link : Nat) : List Host.Cell := Memory.put [] (kept.slotAddr i) ([own, 0#8] ++ le16 link)

/-- A header at 4096 that passes every check, with 16 slots at 8192 and a ring of 64 at 65536. -/
def goodHeader : List Host.Cell :=
  Memory.put [] 4096 (le32 Config.marker ++ le16 16 ++ le16 64 ++ le32 8192#32 ++ le32 0#32 ++ le32 65536#32 ++ le32 0#32)

/-! ## Worked cases -/

/-- The check value of the CRC of R139 over the digits 1 to 9, by hand from its polynomial and start value. -/
theorem test_crc_of_the_nine_digits :
    crc16 [0x31#8, 0x32#8, 0x33#8, 0x34#8, 0x35#8, 0x36#8, 0x37#8, 0x38#8, 0x39#8] = 0x29B1#16 := by decide +kernel

/-- 08, the conversion and the comparison: 24,843 grams, tolerance 582, a match. -/
theorem test_load_worked_case :
    gramsOf 180 3000 2300 = 24843 ∧ tolerance { resetTuning with tolAbs := 200, tolRel := 16 } 24500 = 582 ∧
    weightMatches { resetTuning with tolAbs := 200, tolRel := 16 } 24843 24500 = true := by decide +kernel

/-- 08, readings at the limits: 4095 and 4096 are over-range under RIGHT, 65,519 reads 4094 under LEFT. -/
theorem test_raw_readings_at_the_limits :
    rawReading .right 4095 = none ∧ rawReading .right 4096 = none ∧ rawReading .left 65535 = none ∧
    rawReading .left 65519 = some 4094 ∧ gramsOf 0 4095 4094 = 65488 ∧ gramsOf 300 2000 250 = 0 := by decide +kernel

/-- 02, three candidates: the burial share of bin A, and bin B is not earlier. -/
theorem test_burial_shares : burialShare 8 800 500 = 150 ∧ burialShare 8 800 820 = 0 := by decide

/-- 02, at the limits: a due tick behind the counter's wrap is 496 ticks away. -/
theorem test_remaining_across_the_wrap :
    remaining 4294967000#32 (some 200#32) = 496 ∧ remaining 4294967000#32 (some 4294966900#32) = 0 := by decide

/-- R115: the tick counter wraps. -/
theorem test_tick_wraps :
    ∃ t, exec .tick { running with tick := 0xFFFFFFFF#32 } = .next t ∧ t.tick = 0#32 := ⟨_, rfl, rfl⟩

/-- R171: a read under read-clear returns the bits and clears them. -/
theorem test_events_read_clears :
    exec .eventsRead { State.reset with events := 0x41#32 } =
      .next { State.reset with events := 0#32, readData := 0x41#32 } := rfl

/-- R171: a write under write-one-clear clears the bits written as 1. -/
theorem test_events_write_clears_ones :
    exec (.eventsWrite 0x01#32) { State.reset with events := 0x41#32, clearMode := true } =
      .next { State.reset with events := 0x40#32, clearMode := true } := rfl

/-- R159: a base that is not a multiple of 64 fails the start. -/
theorem test_start_with_unaligned_base :
    exec (.runSet {}) { State.reset with exchangeBase := 65#64 } =
      .next { State.reset with exchangeBase := 65#64, events := 0x20#32 } := rfl

/-- R163, R165: a nudge on an anchor whose link names the anchor breaks the chain. -/
theorem test_nudge_on_a_link_to_itself :
    ∃ t, exec (.nudge 0#32 {}) { running with cursor := some (.anchor 0) } = .next t ∧ t.device = .broken ∧
      t.events = 0x04#32 := ⟨_, rfl, by decide +kernel, by decide +kernel⟩

/-- R138: a BEACON frame, written out from its layout, is found behind noise. -/
theorem test_beacon_found_behind_noise :
    receive [0x00#8, 0x7E#8, 0x01#8, 0x84#8, ((crc16 [0x01#8, 0x84#8]) >>> 8).setWidth 8, (crc16 [0x01#8, 0x84#8]).setWidth 8]
      = ([.beacon], []) := by decide +kernel

/-- R45, R47: ARRIVED of the giver at its bound stack is granted at once, and SET is sent at level 0. -/
theorem test_arrived_is_granted_and_sets :
    ∃ t, exec (.arrived 1#8 7#8 12#8 4#8 {}) (withStack { stack with pend := [.bin 9#32 (some 5#32) (some 2)] }
        (withRobots { relay with give := giveSide .approach (some 0) none, binding := some 0 }
          { giver with step := some (openStepOf .approach), state := .acting } taker)) = .next t ∧
      t.outq = [.set 1 0#8 12 4 0 9#32] ∧ (getStack t 0).holder.isSome = true :=
  ⟨_, rfl, by decide +kernel, by decide +kernel⟩

/-- R53, R57: LIFT_DONE hands the bin on, and hop 2 starts with the taker as giver. -/
theorem test_lift_done_hands_on :
    ∃ t, exec (.liftDone 2#8 7#8 0#8 1000#16 {}) (withStack { stack with
          resting := [bin9], holder := some { robot := 2, purpose := .take, tag := 5#32, bin := 9#32 } }
        (withRobots { relay with give := { giveSide .done none none with robot := none }
                                 take := takeSide .lifting (some 0) none, binding := some 0 } giver
          { taker with step := some (openStepOf .lift), state := .acting, accessHeld := some 0 })) = .next t ∧
      (getRelay t 5#32).map Relay.hop = some 2 ∧ ((getRelay t 5#32).bind fun r => r.give.robot) = some 2 :=
  ⟨_, rfl, by decide +kernel, by decide +kernel⟩

/-- R67, R81: a RELAY that claims the orphan a shuffler is about to lift becomes the moved relay of that shuffle, and the
shuffle's reservation and blank hold take its tag (log 46). -/
theorem test_claim_of_an_orphan_about_to_be_moved :
    (runSlot 15 8 6#32 ([4#8, 0#8, 0#8, 0#8, 0#8, 0#8, 0#8, 0#8, 1#8, 0#8, 0#8, 1#8, 0#8, 2#8, 10#8, 0#8, 0#8, 0#8, 1#8, 2#8]
        ++ List.replicate 116 0#8)
      (withStack { stack with resting := [bin9, orphan], pend := [.hold none 2], holder := some ⟨2, .shuffleLift, 5#32, 4#32⟩ }
        (withRelay { relay with
          give := { giveSide .done none none with robot := none }, take := takeSide .shufLift (some 0) none
          shuffle := some { movedBin := 4#32, movedRelay := none, boundDistrict := none, source := 0, target := some 63
                            excluded := none, setbacks := 0, returning := false } }))).2.relays.filterMap
      (fun r => r.shuffle.map fun sh => (sh.movedRelay, sh.boundDistrict)) = [(some 6#32, some 2)] ∧
    PendEntry.adopt 4#32 [2] 6#32 2 (.bin 4#32 none none) = .bin 4#32 (some 6#32) (some 2) ∧
    PendEntry.adopt 4#32 [2] 6#32 2 (.hold none 2) = .hold (some 6#32) 2 := by decide +kernel

/-- The hop's named takers after a FAULT of robot 2, a taker in T_DONE of a relay whose end is pending. -/
def takersAfterFault (held : Option BinId) : Option (List (Option Nat)) :=
  (getRelay (faultOnRelay 5#32 2 (withRobots { relay with
      give := giveSide .approach (some 0) none, take := takeSide .done none none, endPending := some .withdrawn }
    { giver with step := some (openStepOf .approach) } { taker with heldBin := held, state := .faulted })) 5#32).map
    Relay.takers

/-- R92: a current taker that faults before it has lifted the bin leaves its entry ANY; one that holds the bin does not. -/
theorem test_fault_of_a_taker_in_done :
    takersAfterFault none = some [none, none] ∧ takersAfterFault (some 9#32) = some [some 2, none] := by decide +kernel

/-- R173: a NUDGE that finds slot 0 POSTED, cut by a reset before and after the write of TAKEN, its access 3. -/
theorem test_reset_between_the_writes_of_a_nudge :
    (∃ t, exec (.nudge 0#32 { reset := some ⟨.soft, 3⟩ }) { running with mem := slotAt 0 1#8 0 } = .next t ∧
      Memory.get t.mem (kept.slotAddr 0) = 1#8 ∧ t.device = .idle) ∧
    ∃ t, exec (.nudge 0#32 { reset := some ⟨.powerOn, 4⟩ }) { running with mem := slotAt 0 1#8 0 } = .next t ∧
      t.mem = slotAt 0 2#8 0 ∧ t.device = .idle :=
  ⟨⟨_, rfl, by decide +kernel, by decide +kernel⟩, ⟨_, rfl, by decide +kernel, by decide +kernel⟩⟩

/-! ## Witnesses: queue, registers, starts and polls -/

theorem witness_StepRunsFrontCommand : State.reset.pending = [] := rfl

/-- The plain operand, with or without writes of the host, is one during which no reset arrives; every witness that names no
operand is with it. -/
theorem witness_no_reset_arrives (ws : List HostWrite) :
    ({} : Bus).reset = none ∧ ({ writes := ws } : Bus).reset = none := ⟨rfl, rfl⟩

/-- Commands during which a reset arrives: before the first access; of a walk that finds a slot POSTED; of a good start. -/
theorem witness_SoftResetKeepsBaseAndTick :
    ((Instr.beacon { reset := some ⟨.soft, 0⟩ }).bus.reset = some ⟨.soft, 0⟩ ∧
      (Instr.beacon { reset := some ⟨.soft, 0⟩ }).bus.writes = [] ∧
      ∃ t, exec (.beacon { reset := some ⟨.soft, 0⟩ }) running = .next t) ∧
    (running.kept = some kept ∧ running.gap = none ∧ running.device = .running ∧
      walkFinds { running with mem := slotAt 0 1#8 0 } kept 0 2) ∧
    (State.reset.device = .idle ∧ (4096#64 ≠ 0#64 ∧ (4096#64).toNat % 64 = 0) ∧
      (Header.ofBytes (Memory.bytes goodHeader 4096 64)).passes 4096 = true) :=
  ⟨⟨rfl, rfl, _, rfl⟩, ⟨rfl, rfl, rfl, rfl, rfl, by unfold isPosted; decide +kernel⟩, rfl, by decide, by decide +kernel⟩

theorem witness_RegisterCommandsAct :
    ({ running with clearMode := true }).clearMode = true ∧ running.clearMode = false ∧ State.reset.device = .idle ∧
    running.device ≠ .idle ∧ running.device = .running ∧ ({ running with device := .broken }).device = .broken ∧
    ({ running with device := .stopped }).device = .stopped := by decide +kernel

/-- Writes to CONTROL: RESET; CLEAR_MODE alone; RUN set from clear and clear from set; HOLD; RESUME; and two other offsets. -/
theorem witness_RegisterWriteActsByOffset :
    (2#64).getLsbD 1 = true ∧ ((0x10#64).getLsbD 1 = false ∧ (0x10#64).getLsbD 0 = State.reset.run ∧
      (0x10#64).getLsbD 2 = false ∧ (0x10#64).getLsbD 3 = false) ∧
    ((1#64).getLsbD 1 = false ∧ (1#64).getLsbD 0 = true ∧ State.reset.run = false ∧ (1#64).getLsbD 2 = false ∧
      (1#64).getLsbD 3 = false) ∧ ((0#64).getLsbD 0 = false ∧ running.run = true) ∧
    ((5#64).getLsbD 0 = running.run ∧ (5#64).getLsbD 2 = true ∧ (5#64).getLsbD 3 = false) ∧
    ((9#64).getLsbD 0 = running.run ∧ (9#64).getLsbD 2 = false ∧ (9#64).getLsbD 3 = true) ∧
    0x00 ∉ [0x04, 0x0C, 0x10, 0x14, 0x18, 0x20] ∧ 0x24 ∉ [0x04, 0x0C, 0x10, 0x14, 0x18, 0x20] := by decide +kernel

theorem witness_StartFails :
    State.reset.exchangeBase = 0#64 ∧ (63#64).toNat % 64 ≠ 0 ∧ (4096#64 ≠ 0#64 ∧ (4096#64).toNat % 64 = 0) ∧
    (Header.ofBytes (Memory.bytes State.reset.mem 4096 64)).passes 4096 = false := by decide +kernel

theorem witness_StartKeepsHeaderAndRuns :
    ({ State.reset with exchangeBase := 4096#64, mem := goodHeader }).device = .idle ∧
    (4096#64 ≠ 0#64 ∧ (4096#64).toNat % 64 = 0) ∧
    (Header.ofBytes (Memory.bytes goodHeader 4096 64)).passes 4096 = true ∧ Memory.get goodHeader 8192 ≠ 1#8 := by
  decide +kernel

theorem witness_PollFindsNothing :
    walkEnds running kept ∧ walkEnds { running with cursor := some (.anchor 0), mem := slotAt 0 2#8 0xFFFF } kept ∧
    running.gap = none ∧ ({ running with pollDue := true }).pollDue = true ∧ (15#32).toNat % 65536 < kept.slotCount ∧
    ¬isPosted running kept 15 :=
  ⟨show ¬(Memory.get running.mem (kept.slotAddr 0) = 1#8) by decide +kernel,
    show linkOf { running with mem := slotAt 0 2#8 0xFFFF } kept 0 = Config.linkEnd by decide +kernel, rfl, rfl,
    by decide, by unfold isPosted; decide +kernel⟩

theorem witness_BrokenLinkStopsIntake :
    (linkOf { running with mem := slotAt 1 2#8 16 } kept 1 = 16 ∧ kept.slotCount ≤ 16) ∧
    linkOf { running with mem := slotAt 1 2#8 1 } kept 1 = 1 ∧
    (linkOf { running with mem := slotAt 1 2#8 15 } kept 1 = 15 ∧
      ¬isPosted { running with mem := slotAt 1 2#8 15 } kept 15) := by unfold linkOf isPosted; decide +kernel

theorem witness_IgnoredCommandsChangeNothing :
    State.reset.device ≠ .running ∧ State.reset.device = .idle ∧ kept.slotCount ≤ (16#32).toNat % 65536 ∧
    running.device = .running ∧ ({ running with device := .exchangeFault }).device = .exchangeFault ∧
    running.pollDue = false := by decide +kernel

/-- A slot POSTED at BEFORE, one POSTED behind the anchor, in RUNNING and in STOPPED, and a header whose first slot is
POSTED. -/
theorem witness_PostedSlotTakenAndEnded :
    (running.device ≠ .exchangeFault ∧ running.bus.errorAt = none ∧ running.bus.writes = [] ∧
      exchangeOpen running = true ∧ running.kept = some kept ∧ running.gap = none ∧
      ({ running with pollDue := true }).pollDue = true) ∧
    walkFinds { running with mem := slotAt 0 1#8 0 } kept 0 2 ∧
    walkFinds { running with cursor := some (.anchor 0), mem := slotAt 0 2#8 15 ++ slotAt 15 1#8 0 } kept 15 3 ∧
    walkFinds { running with device := .stopped, mem := slotAt 0 1#8 0 } kept 0 2 ∧
    ((15#32).toNat % 65536 < kept.slotCount ∧ isPosted { running with mem := slotAt 15 1#8 0 } kept 15) ∧
    (Header.ofBytes (Memory.bytes (goodHeader ++ slotAt 0 1#8 0) 4096 64)).passes 4096 = true ∧
    Memory.get (goodHeader ++ slotAt 0 1#8 0) 8192 = 1#8 :=
  ⟨by decide +kernel, ⟨rfl, rfl, by unfold isPosted; decide +kernel⟩,
    ⟨by unfold linkOf; decide +kernel, rfl, by decide, by decide, by decide, by unfold isPosted; decide +kernel⟩,
    ⟨rfl, rfl, by unfold isPosted; decide +kernel⟩, ⟨by decide, by unfold isPosted; decide +kernel⟩,
    by decide +kernel, by decide +kernel⟩

/-- A body of zeros: DECLARE_STACK refuses it FIELD, since 0 is no district. -/
theorem witness_RefusedRequestChangesNothing :
    (∃ code, runSlot 0 1 0#32 (List.replicate 136 0#8) running = (some code, running) ∧ code ≠ .done) ∧
    (∃ r ∈ running.relays, r.slot = 3) ∧ (0 < 1 ∨ 10 < 0) ∧ (11 < 1 ∨ 10 < 11) :=
  ⟨⟨.field, by decide +kernel, by decide⟩, by decide +kernel, by decide, by decide⟩

/-! ## Witnesses: notices and slots -/

theorem witness_NoticeAppendedOrDiscarded :
    (exchangeOpen running = true ∧ (({ kept with writeIndex := 63, takeIndex := 1 }).writeIndex + 1) % 64 ≠ 1) ∧
    ((({ kept with writeIndex := 63 }).writeIndex + 1) % 64 = kept.takeIndex ∧
      (Kept.reread running { kept with writeIndex := 63 }).takeIndex = 0) ∧
    State.reset.device = .idle := by unfold Kept.reread; decide +kernel

theorem witness_GapGoesFirst :
    ({ running with gap := some 3#32 }).gap = some 3#32 ∧ ((62 + 1) % 64 + 1) % 64 = 0 ∧
    (((63 + 1) % 64 + 1) % 64 ≠ 2 ∧ (63 + 1) % 64 ≠ 2) := by decide +kernel

theorem witness_RelaySlotEnded :
    Memory.get (slotAt 3 2#8 0xFFFF) (kept.slotAddr 3) = 2#8 ∧ Memory.get running.mem (kept.slotAddr 3) ≠ 2#8 := by
  decide +kernel

theorem witness_BusErrorEntersExchangeFault :
    ({ running with bus := { errorAt := some 0 } }).bus.errorAt = some running.busCount ∧
    running.device ≠ .exchangeFault ∧ ({ running with device := .exchangeFault }).device = .exchangeFault := by
  decide +kernel

/-! ## Witnesses: placement, stacks and access -/

/-- Stacks 0 and 63 cost the same, and the lower id is chosen; without candidates nothing is. -/
theorem witness_PlacementChoosesLeastCost :
    (hopPlacement running relay).map Prod.fst = some 0 ∧
    (hopPlacement (withRelay { relay with refused := some 0 }) { relay with refused := some 0 }).map Prod.fst = some 63 ∧
    choose State.reset (fun _ k => k.open) { bin := 9#32, due := none, cls := .ambient, cell := none } = none := by
  decide +kernel

/-- A wait list with a set-down before a lift of the top bin. -/
def waiting : StackRec :=
  { stack with resting := [bin9], pend := [.bin 4#32 none none]
               waits := [⟨1, .give, 6#32, 4#32⟩, ⟨2, .take, 5#32, 9#32⟩] }

theorem witness_ArbiterGrantsLiftsFirst :
    (getStack (withStack { waiting with holder := some ⟨1, .give, 6#32, 4#32⟩ } running) 0).holder ≠ none ∧
    (arbiterPick (withStack waiting running) 0 = some ⟨2, .take, 5#32, 9#32⟩ ∧
      waiting.waits = [⟨1, .give, 6#32, 4#32⟩] ++ ⟨2, .take, 5#32, 9#32⟩ :: [] ∧ waiting.onTop 9#32 = true) ∧
    arbiterPick (withStack { waiting with resting := [bin9, orphan] } running) 0 = some ⟨1, .give, 6#32, 4#32⟩ := by
  decide +kernel

/-- The part with a taker waiting for its bin at stack 0, where a bin of no relay is reserved and a blank hold stands. -/
def awaited : State :=
  withStack { stack with
      resting := [bin9], pend := [.bin 4#32 none none, .hold none 7], waits := [⟨2, .take, 5#32, 9#32⟩] }
    (withRelay { relay with
      give := { giveSide .done none none with robot := none }, binding := some 0, take := takeSide .wait none none })

/-- A suspect cause at a stack that is ACTIVE, at one that is not, at one whose holder is setting down its bin, and at one
with nothing to cancel. -/
theorem witness_SuspectOnlyFromActive :
    ((getStack running 63).state = .active ∧ (getStack running 63).pend = [] ∧ (getStack running 63).waits = [] ∧
      running.placeWait = []) ∧ (getStack running 1).state ≠ .active ∧
    ((getStack awaited 0).state = .active ∧ (getStack awaited 0).Sound ∧ (∀ b, shufflingRelay awaited b = none) ∧
      ∃ r, ⟨2, .take, 5#32, 9#32⟩ ∈ (getStack awaited 0).waits ∧ getRelay awaited 5#32 = some r ∧
        r.take.robot = some 2 ∧ r.take.state = .wait ∧ r.endPending = none ∧
        (getStack awaited 0).rests r.bin = true) ∧
    ∃ h, (getStack (withStack { stack with holder := some ⟨1, .give, 5#32, 9#32⟩ } running) 0).holder = some h ∧
      h.purpose.isSet = true ∧ h.bin = 9#32 :=
  ⟨by decide +kernel, by decide +kernel,
    ⟨by decide +kernel, by unfold StackRec.Sound; decide +kernel, fun _ => rfl,
      ⟨_, by decide +kernel, rfl, rfl, rfl, rfl, by decide +kernel⟩⟩, ⟨_, rfl, rfl, rfl⟩⟩

/-! ## Witnesses: reports -/

/-- The part with the giver's step open at stack 0. -/
def giving (st : GiveState) (kind : StepKind) (refusals : Nat) : State :=
  withStack { stack with
      pend := [.bin 9#32 (some 5#32) (some 2)]
      holder := if st = .setting then some ⟨1, .give, 5#32, 9#32⟩ else none }
    (withRobots { relay with give := giveSide st (some 0) none, binding := some 0, giveRefusals := refusals }
      { giver with step := some (openStepOf kind), state := .acting
                   accessHeld := if st = .setting then some 0 else none } taker)

/-- The part with the taker's step open at stack 0. -/
def taking (st : TakeState) (kind : StepKind) (purpose : Purpose) (refusals : Nat) (sh : Option Shuffle) : State :=
  withStack { stack with resting := [bin9], holder := some ⟨2, purpose, 5#32, 9#32⟩ }
    (withRobots { relay with
        give := { giveSide .done none none with robot := none }, take := takeSide st (some 0) none, binding := some 0
        liftRefusals := refusals, shuffle := sh }
      (robot 1 1 .free .none) { taker with step := some (openStepOf kind), state := .acting, accessHeld := some 0 })

/-- A shuffle that moves the orphan 4 from stack 63 to stack 0. -/
def shuffling : Shuffle :=
  { movedBin := 4#32, movedRelay := none, boundDistrict := none, source := 63, target := some 0, excluded := none
    setbacks := 0, returning := false }

/-- The part with the taker's APPROACH open at stack 0, which is given, and the relay's bin bound to a stack or none. -/
def arriving (k : StackRec) (bound : Option Nat) : State :=
  withStack k (withRobots { relay with
      give := { giveSide .done none none with robot := none }, take := takeSide .approach (some 0) none, binding := bound }
    (robot 1 1 .free .none) { taker with step := some (openStepOf .approach), state := .acting })

/-- The wait entry of the giver at its stack. -/
def giveEntry : Access := ⟨1, .give, 5#32, 9#32⟩

/-- The wait entry of the taker at its stack. -/
def takeEntry : Access := ⟨2, .take, 5#32, 9#32⟩

/-- A giver at a free stack, and behind a holder. -/
theorem witness_ArrivedWritesCell (h : Option Access) (hh : h = none ∨ h = some ⟨7, .give, 6#32, 4#32⟩) :
    ∃ s c p r, s = withStack { getStack (giving .approach .approach 0) 0 with holder := h }
        (giving .approach .approach 0) ∧
      getRobot s 1 = some c ∧ c.state ≠ .faulted ∧ c.step = some p ∧ p.seq = 7#8 ∧ p.kind = .approach ∧
      c.lentTo = .relay 5#32 ∧ c.accessHeld = none ∧ getRelay s 5#32 = some r ∧ r.give.robot = some 1 ∧
      r.give.state = .approach ∧ r.give.stepStack = some 0 ∧ r.binding = some 0 ∧ r.endPending = none ∧
      s.deferred = [] ∧ joinAccepted s 0 giveEntry = true ∧ (getStack s 0).holder = h ∧
      (getStack s 0).blocked = false ∧ (getStack s 0).waits = [] := by
  rcases hh with rfl | rfl <;>
    exact ⟨_, _, _, _, rfl, rfl, by decide, rfl, rfl, rfl, rfl, rfl, rfl, rfl, rfl, rfl, rfl, rfl, rfl,
      by decide +kernel, rfl, rfl, rfl⟩

/-- A taker at its stack, whatever the stack and the binding. -/
theorem witness_ArrivedTaker (k : StackRec) (bound : Option Nat) :
    ∃ c p r, getRobot (arriving k bound) 2 = some c ∧ c.state ≠ .faulted ∧ c.step = some p ∧ p.seq = 7#8 ∧
      p.kind = .approach ∧ c.lentTo = .relay 5#32 ∧ c.accessHeld = none ∧ getRelay (arriving k bound) 5#32 = some r ∧
      r.give.robot ≠ some 2 ∧ r.take.robot = some 2 ∧ r.take.state = .approach ∧ r.take.stepStack = some 0 ∧
      r.binding = bound ∧ r.endPending = none ∧ (arriving k bound).deferred = [] :=
  ⟨_, _, _, rfl, by decide, rfl, rfl, rfl, rfl, rfl, rfl, nofun, rfl, rfl, rfl, rfl, rfl, rfl⟩

/-- The stacks of a taker's arrival: held, SUSPECT with its bin buried, free with its bin on top, and without its bin. -/
theorem witness_ArrivedTakerStacks :
    (joinAccepted (arriving { stack with resting := [bin9], holder := some giveEntry } (some 0)) 0 takeEntry = true ∧
      (getStack (arriving { stack with resting := [bin9], holder := some giveEntry } (some 0)) 0).holder ≠ none) ∧
    (joinAccepted (arriving { stack with resting := [bin9, orphan], state := .suspect } (some 0)) 0 takeEntry = true ∧
      (getStack (arriving { stack with resting := [bin9, orphan], state := .suspect } (some 0)) 0).state = .suspect) ∧
    (joinAccepted (arriving { stack with resting := [bin9] } (some 0)) 0 takeEntry = true ∧
      (getStack (arriving { stack with resting := [bin9] } (some 0)) 0).holder = none ∧
      (getStack (arriving { stack with resting := [bin9] } (some 0)) 0).state = .active ∧
      (getStack (arriving { stack with resting := [bin9] } (some 0)) 0).onTop 9#32 = true ∧
      (getStack (arriving { stack with resting := [bin9] } (some 0)) 0).waits = []) ∧
    (getStack (arriving stack (some 0)) 0).rests 9#32 = false ∧ 63 ≠ 0 := by decide +kernel

/-- The part with the shuffler set to rest the moved bin at stack 0, where it is reserved. -/
def shuffleSetting : State :=
  withStack { stack with
      resting := [bin9], pend := [.bin 4#32 none none], holder := some ⟨2, .shuffleSet, 5#32, 4#32⟩ }
    (taking .shufSet .set .shuffleSet 0 (some shuffling))

theorem witness_SetDoneRestsBin :
    (∃ c p r, getRobot (giving .setting .set 0) 1 = some c ∧ c.state ≠ .faulted ∧ c.step = some p ∧ p.kind = .set ∧
      c.lentTo = .relay 5#32 ∧ getRelay (giving .setting .set 0) 5#32 = some r ∧ r.give.robot = some 1 ∧
      r.give.state = .setting ∧ r.give.stepStack = some 0 ∧ holds (getStack (giving .setting .set 0) 0) 1 true = true ∧
      (getStack (giving .setting .set 0) 0).reserved r.bin = true) ∧
    ∃ c p r, getRobot shuffleSetting 2 = some c ∧ c.state ≠ .faulted ∧
      c.step = some p ∧ p.kind = .set ∧ c.lentTo = .relay 5#32 ∧
      getRelay shuffleSetting 5#32 = some r ∧ r.give.robot ≠ some 2 ∧
      r.take.robot = some 2 ∧ r.take.state = .shufSet ∧ r.take.stepStack = some 0 ∧ r.shuffle = some shuffling ∧
      holds (getStack shuffleSetting 0) 2 true = true ∧ (getStack shuffleSetting 0).reserved shuffling.movedBin = true :=
  ⟨⟨_, _, _, rfl, by decide, rfl, rfl, rfl, rfl, rfl, rfl, rfl, by decide +kernel, by decide +kernel⟩,
    ⟨_, _, _, rfl, by decide, rfl, rfl, rfl, rfl, by decide, rfl, rfl, rfl, rfl, by decide +kernel, by decide +kernel⟩⟩

theorem witness_LiftDoneTakesTopBin (st : TakeState) (hst : st = .lifting ∨ st = .shufLift) :
    ∃ c p r, getRobot (taking st .lift .take 0 none) 2 = some c ∧ c.state ≠ .faulted ∧ c.step = some p ∧
      p.kind = .lift ∧ c.lentTo = .relay 5#32 ∧ getRelay (taking st .lift .take 0 none) 5#32 = some r ∧
      r.give.robot ≠ some 2 ∧ r.take.robot = some 2 ∧ r.take.state = st ∧ r.take.stepStack = some 0 ∧
      holds (getStack (taking st .lift .take 0 none) 0) 2 false = true ∧
      (getStack (taking st .lift .take 0 none) 0).resting ≠ [] := by
  rcases hst with rfl | rfl <;>
    exact ⟨_, _, _, rfl, by decide, rfl, rfl, rfl, rfl, by decide, rfl, rfl, rfl, by decide +kernel, by decide +kernel⟩

theorem witness_SecondRefusalEndsRelay :
    (∃ r, getRelay (giving .approach .approach 1) 5#32 = some r ∧ r.give.robot = some 1 ∧ r.give.stepStack = some 0 ∧
      r.give.state = .approach ∧ r.binding = some 0 ∧ r.giveRefusals ≠ 0 ∧ r.endPending = none) ∧
    (∃ r, getRelay (giving .setting .set 1) 5#32 = some r ∧ r.give.state = .setting ∧ r.giveRefusals ≠ 0) ∧
    ∃ r, getRelay (taking .lifting .lift .take 1 none) 5#32 = some r ∧ r.give.robot ≠ some 2 ∧
      r.take.robot = some 2 ∧ r.take.stepStack = some 0 ∧ r.take.state = .lifting ∧ r.liftRefusals ≠ 0 ∧
      r.endPending = none :=
  ⟨⟨_, rfl, rfl, rfl, rfl, rfl, by decide, rfl⟩, ⟨_, rfl, rfl, by decide⟩,
    ⟨_, rfl, by decide, rfl, rfl, rfl, by decide, rfl⟩⟩

theorem witness_RefusedApproachReleasesTaker :
    ∃ c p r, getRobot (taking .approach .approach .take 0 none) 2 = some c ∧ c.state ≠ .faulted ∧ c.step = some p ∧
      p.seq = 7#8 ∧ c.lentTo = .relay 5#32 ∧ getRelay (taking .approach .approach .take 0 none) 5#32 = some r ∧
      r.give.robot ≠ some 2 ∧ r.take.robot = some 2 ∧ r.take.stepStack = some 0 ∧ r.take.state = .approach ∧
      r.endPending = none ∧ getQueue (taking .approach .approach .take 0 none) r.takeDistrict = [] ∧
      (taking .approach .approach .take 0 none).deferred = [] :=
  ⟨_, _, _, rfl, by decide, rfl, rfl, rfl, rfl, by decide, rfl, rfl, rfl, rfl, by decide +kernel, rfl⟩

/-- An undeclared robot, a robot without a step, and a SET_DONE for an open APPROACH. -/
theorem witness_UnmatchedReportDiscarded :
    running.linkUp = true ∧ getRobot running 250 = none ∧ (getRobot running 1).map Robot.step = some none ∧
    (((getRobot (giving .approach .approach 0) 1).bind Robot.step).map fun p => (p.seq, p.kind)) =
      some (7#8, .approach) := by decide +kernel

theorem witness_LinkGoesDownAndUp :
    ({ running with silenceDue := true }).silenceDue = true ∧ running.linkUp = true ∧ State.reset.linkUp = false := by
  decide +kernel

theorem witness_FaultReportActs :
    (∃ c, getRobot { running with robots := [robot 1 1 .standby .standby] } 1 = some c ∧ c.state ≠ .faulted ∧
      (∀ t, c.lentTo ≠ .relay t) ∧ c.accessHeld = none) ∧
    ∃ c r, getRobot running 1 = some c ∧ c.state ≠ .faulted ∧ c.lentTo = .relay 5#32 ∧ c.accessHeld = none ∧
      getRelay running 5#32 = some r ∧ r.give.robot = some 1 ∧ r.give.state ≠ .done ∧ r.endPending = none :=
  ⟨⟨_, rfl, by decide, fun _ => LentTo.noConfusion, rfl⟩, ⟨_, _, rfl, by decide, rfl, rfl, rfl, rfl, by decide, rfl⟩⟩

/-! ## Witnesses: ticks, warns and limits -/

theorem witness_TickAdvancesClocks : State.reset.device = .idle ∧ running.device ≠ .idle := by decide +kernel

/-- A count one below the top, at the top, and a stopped timer. -/
theorem witness_TimerCountsToWarnAndLimit :
    (({ dueTimer .rest with running := true, count := 65534 }).running = true ∧ 65534 < 65535) ∧
    (dueTimer .rest).running = false ∧ ({ dueTimer .rest with count := 65535 }).count = 65535 := by decide

theorem witness_WarnsSetLate :
    (∃ r m, getRelay (withRelay { relay with give := giveSide .placing none (some (dueTimer .place)) }) 5#32 = some r ∧
      r.timer .give = some m ∧ m.warnDue = true ∧ m.phase ≠ .bury) ∧
    ∃ r m, getRelay (withRelay { relay with
        allowShuffle := false, take := takeSide .buried none (some (dueTimer .bury)) }) 5#32 = some r ∧
      r.take.timer = some m ∧ m.warnDue = true ∧ m.phase = .bury ∧ r.allowShuffle = false :=
  ⟨⟨_, _, rfl, rfl, rfl, by decide⟩, ⟨_, _, rfl, rfl, rfl, rfl, rfl⟩⟩

/-- The part with the taker buried under an orphan on stack 0; stack 63 is the one target. -/
def buried : State :=
  withStack { stack with resting := [bin9, orphan], waits := [⟨2, .take, 5#32, 9#32⟩] }
    (withRelay { relay with
      give := { giveSide .done none none with robot := none }, binding := some 0
      take := takeSide .buried none (some (dueTimer .bury)) })

theorem witness_BuryWarnStartsShuffle :
    ∃ r m, getRelay buried 5#32 = some r ∧ r.take.timer = some m ∧ m.warnDue = true ∧ m.phase = .bury ∧
      r.take.state = .buried ∧ r.take.robot = some 2 ∧ r.binding = some 0 ∧ r.allowShuffle = true ∧
      r.endPending = none ∧ (getStack buried 0).state = .active ∧ (getStack buried 0).holder = none ∧
      (getStack buried 0).hasRoom = true ∧ (getStack buried 0).top = some orphan ∧
      (targetPlacement (modTimer 5#32 .take (fun m => { m with warnDue := false }) (beginBus {} buried)) 0 none 4#32 none 2).map
        Prod.fst = some 63 ∧ buried.deferred = [] :=
  ⟨_, _, rfl, rfl, rfl, rfl, rfl, rfl, rfl, rfl, rfl, by decide +kernel, by decide +kernel, by decide +kernel,
    by decide +kernel, by decide +kernel, rfl⟩

/-- The part with a limit of both sides arisen, the taker with or without an open step, and an end pending or none. -/
def limited (ph : Phase) (stepping : Bool) (pending : Option Code) : State :=
  withRobots { relay with
      give := giveSide .placing none (some (dueTimer ph)), take := takeSide .ready none (some (dueTimer ph))
      endPending := pending }
    giver { taker with step := if stepping then some (openStepOf .approach) else none }

theorem witness_WaitingLimitEndsRelay (ph : Phase) (stepping : Bool) (pending : Option Code) :
    ∃ r m m', getRelay (limited ph stepping pending) 5#32 = some r ∧ r.timer .give = some m ∧ m.limitDue = true ∧
      m.phase = ph ∧ r.timer .take = some m' ∧ m'.limitDue = true ∧ m'.phase = ph ∧ r.endPending = pending ∧
      stepOpen (limited ph stepping pending) r = stepping ∧ (limited ph stepping pending).deferred = [] := by
  refine ⟨_, _, _, rfl, rfl, rfl, rfl, rfl, rfl, rfl, rfl, ?_, rfl⟩
  cases stepping <;> rfl

/-- The part with a shuffler whose timer has reached its limit, and a second relay, whose bin it moves. -/
def shuffleLimited (st : TakeState) (ph : Phase) (sh : Shuffle) : State :=
  { running with relays := [{ relay with
      give := { giveSide .done none none with robot := none }, take := takeSide st (some 0) (some (dueTimer ph))
      shuffle := some sh }, { relay with tag := 6#32, slot := 4, bin := 4#32 }] }

/-- The shuffler's wait at its first target, at its second, on its return, and of a bin of the second relay. -/
theorem witness_ShufflerLimits (st : TakeState) (ph : Phase) (sh : Shuffle)
    (hsh : sh = shuffling ∨ sh = { shuffling with setbacks := 1, movedRelay := some 6#32 } ∨
      sh = { shuffling with returning := true, target := none }) :
    ∃ r m c rq, getRelay (shuffleLimited st ph sh) 5#32 = some r ∧ r.take.timer = some m ∧ m.limitDue = true ∧
      m.phase = ph ∧ r.take.state = st ∧ r.shuffle = some sh ∧ r.take.robot = some 2 ∧
      getRobot (shuffleLimited st ph sh) 2 = some c ∧ r.endPending = none ∧ sh.movedRelay ≠ some 5#32 ∧
      getQueue (shuffleLimited st ph sh) r.takeDistrict = [] ∧
      getRelay (shuffleLimited st ph sh) 6#32 = some rq ∧ rq.endPending = none := by
  rcases hsh with rfl | rfl | rfl <;>
    exact ⟨_, _, _, _, rfl, rfl, rfl, rfl, rfl, rfl, rfl, rfl, rfl, by decide, rfl, rfl, rfl⟩

theorem witness_ActLimitEndsRelay :
    (∃ r m c, getRelay (withRelay { relay with give := giveSide .approach (some 0) (some (dueTimer .giveApproach)) })
        5#32 = some r ∧ r.timer .give = some m ∧ m.limitDue = true ∧ m.phase = .giveApproach ∧
      r.sideRobot .give = some 1 ∧ getRobot running 1 = some c ∧ r.endPending = none ∧ r.shuffle = none) ∧
    (∃ r m, getRelay (withRelay { relay with give := giveSide .setting (some 0) (some (dueTimer .giveAct)) })
        5#32 = some r ∧ r.timer .give = some m ∧ m.phase = .giveAct ∧ r.sideRobot .give = some 1) ∧
    (∃ r m, getRelay (withRelay { relay with take := takeSide .lifting (some 0) (some (dueTimer .takeAct)) })
        5#32 = some r ∧ r.timer .take = some m ∧ m.phase = .takeAct ∧ r.sideRobot .take = some 2) ∧
    ∃ c h, getRobot (giving .setting .set 0) 1 = some c ∧ c.accessHeld = some 0 ∧
      (getStack (giving .setting .set 0) 0).holder = some h ∧ c.step ≠ none :=
  ⟨⟨_, _, _, rfl, rfl, rfl, rfl, rfl, rfl, rfl, rfl⟩, ⟨_, _, rfl, rfl, rfl, rfl⟩, ⟨_, _, rfl, rfl, rfl, rfl⟩,
    ⟨_, _, rfl, rfl, rfl, by decide⟩⟩

theorem witness_TakeApproachLimitDropsTaker :
    ∃ r m c, getRelay (withRelay { relay with take := takeSide .approach (some 0) (some (dueTimer .takeApproach)) })
        5#32 = some r ∧ r.take.timer = some m ∧ m.limitDue = true ∧ m.phase = .takeApproach ∧ r.take.robot = some 2 ∧
      getRobot running 2 = some c ∧ c.lentTo = .relay 5#32 ∧ c.accessHeld = none ∧ r.endPending = none ∧
      getQueue running r.takeDistrict = [] ∧ running.deferred = [] :=
  ⟨_, _, _, rfl, rfl, rfl, rfl, rfl, rfl, rfl, rfl, rfl, by decide +kernel, rfl⟩

theorem witness_ExposureExpiryActs (abort : Bool) :
    ∃ r k, getRelay (withRelay { relay with
        abortOnExposure := abort
        clock := some { used := 0, opened := some 0#32, expired := false, due := true } }) 5#32 = some r ∧
      r.clock = some k ∧ k.due = true ∧ k.expired = false ∧ r.abortOnExposure = abort ∧ r.endPending = none ∧
      running.deferred = [] := ⟨_, _, rfl, rfl, rfl, rfl, rfl, rfl, rfl⟩

/-! ## Witnesses: lines and hold -/

/-- The part with line 31 changed. -/
def withLine (l : Line) : State := { running with lines := running.lines.set 31 l }

/-- An OFF line; a GATE line with a check time; a GATE line with check time 0, whose level changes at once. -/
theorem witness_RawLineChangeFilters :
    running.lines.length = 32 ∧ (getLine running 0).raw ≠ true ∧ (getLine running 0).fn = .off ∧
    ((getLine (withLine { fn := .gate, check := 3 }) 31).fn ≠ .off ∧
      (getLine (withLine { fn := .gate, check := 3 }) 31).candidate.any Candidate.due = false) ∧
    ((getLine (withLine { fn := .gate, check := 0 }) 31).raw ≠ true ∧
      (getLine (withLine { fn := .gate, check := 0 }) 31).fn ≠ .off ∧
      (getLine (withLine { fn := .gate, check := 0 }) 31).candidate.any Candidate.due = false ∧
      true ≠ (getLine (withLine { fn := .gate, check := 0 }) 31).level ∧
      (getLine (withLine { fn := .gate, check := 0 }) 31).check = 0) ∧
    exchangeOpen running = true ∧ running.bus.errorAt = none ∧ running.bus.writes = [] ∧
    exchangeOpen State.reset = false ∧ running.deferred = [] ∧ (getLine running 31).raw = false := by decide +kernel

theorem witness_DebounceExpiryChangesLevel :
    (∃ c, (getLine (withLine { fn := .overfill 63, check := 1, raw := true, candidate := some ⟨true, 1, true⟩ }) 31).candidate
      = some c ∧ c.due = true) ∧ 63 < running.stackRecs.length ∧
    (∃ c, (getLine (withLine { fn := .gate, check := 1, raw := true, candidate := some ⟨true, 1, true⟩ }) 31).candidate
      = some c ∧ c.due = true) ∧
    gateTest (withLine { fn := .gate, check := 1, raw := true, level := true }) = true :=
  ⟨⟨_, rfl, rfl⟩, by decide +kernel, ⟨_, rfl, rfl⟩, by decide +kernel⟩

theorem witness_HoldAndResume :
    running.device ≠ .idle ∧ running.hold = false ∧ ({ running with hold := true }).hold = true ∧
    (∀ l ∈ running.lines, l.fn = .gate → l.level = false) ∧
    ∃ l ∈ (withLine { fn := .gate, level := true }).lines, l.fn = .gate ∧ l.level = true := by decide +kernel

/-! ## Witnesses: the fleet link's bytes -/

theorem witness_TransmitterSendsHeadFrame :
    (({ running with outq := [.release 1] }).outq = .release 1 :: [] ∧ running.linkUp = true ∧ running.hold = false ∧
      running.tx = none) ∧ running.outq = [] ∧
    ({ running with outq := [.release 1], tx := some [0x7E#8] }).tx = some [0x7E#8] := by decide +kernel

theorem witness_BadFramesDropped :
    0x00#8 ≠ 0x7E#8 ∧ Front.ofBytes [33#8] = .bad ∧ receive (running.rx ++ [0x55#8]) = ([], []) ∧
    (receive (running.rx ++ [0x7E#8, 0x04#8, 0x82#8]) = ([], [0x7E#8, 0x04#8, 0x82#8]) ∧
      receive [0x04#8, 0x82#8] = ([], [])) := by decide +kernel

/-! ## Witnesses: load, exposure, requests -/

theorem witness_GramsFromReading : 4094 ≤ 4094 ∧ 4095 ≤ 4095 := by decide

/-- A relay without a reference, with one, and under STRICT_LOAD; fields 4095, 1000 and 900 with a tolerance of 250. -/
theorem witness_HopLiftLoadCheck :
    (getRelay running 5#32).isSome = true ∧ weigh taker 4095 = none ∧ weigh taker 1000 = some 1000 ∧
    weightMatches resetTuning 1000 1000 = true ∧ weightMatches resetTuning 1000 2000 = false ∧
    ({ relay with reference := some 2000, strictLoad := true }).reference = some 2000 := by decide +kernel

theorem witness_SituationChangeChargesClock :
    (∃ r k, getRelay (withRelay { relay with
        clock := some { used := 9, opened := none, expired := false, due := false } }) 5#32 = some r ∧ r.clock = some k ∧
      k.expired = false ∧ k.used + charged 0#32 k.opened < r.budget) ∧
    relay.clock = none ∧
    ({ relay with clock := some { used := 10, opened := none, expired := true, due := false } }).clock.any
      Clock.expired = true := ⟨⟨_, _, rfl, rfl, rfl, by decide⟩, rfl, rfl⟩

theorem witness_TuneAndStandbyRequests :
    (∃ u, Tune.ofBody ([8#8] ++ List.replicate 135 0#8) = some u ∧ u.silence = some 0 ∧ u.weights = none) ∧
    (∀ r ∈ running.relays, r.slot ≠ 0) ∧
    standbyOfBody ([250#8, 0#8] ++ List.replicate 134 0#8) = some (250, true) ∧
    standbyOfBody ([1#8, 1#8] ++ List.replicate 134 0#8) = some (1, false) ∧
    waitingTake running 1 = none :=
  ⟨⟨_, rfl, rfl, rfl⟩, by decide +kernel, by decide +kernel, by decide +kernel, by decide +kernel⟩

theorem witness_DeclareAndRetireRequests :
    (∃ d, DeclareStack.ofBody ([63#8, 9#8, 9#8, 1#8, 8#8, 8#8, 2#8] ++ List.replicate 129 0#8) = some d ∧ d.stack = 63 ∧
      d.stack < running.stackRecs.length ∧ (getStack running d.stack).state = .active ∧
      (getStack running d.stack).inUse = false ∧ cellTaken running d = false) ∧
    (∃ d, DeclareRobot.ofBody ([250#8, 8#8, 1#8, 0#8, 0#8, 0#8, 1#8, 0#8] ++ List.replicate 128 0#8) = some d ∧
      getRobot running d.robot = none ∧ running.robots.length < 96) ∧
    (Retire.ofBody ([0#8, 63#8] ++ List.replicate 134 0#8) = some (.stack 63) ∧ (getStack running 63).declared = true ∧
      (getStack running 63).inUse = false) ∧
    ∃ c, Retire.ofBody ([1#8, 1#8] ++ List.replicate 134 0#8) = some (.robot 1) ∧
      getRobot { running with robots := [robot 1 1 .free .none] } 1 = some c ∧ c.busy = false :=
  ⟨⟨_, rfl, by decide +kernel, by decide +kernel, by decide +kernel, by decide +kernel, by decide +kernel⟩,
    ⟨_, rfl, by decide +kernel, by decide +kernel⟩,
    ⟨by decide +kernel, by decide +kernel, by decide +kernel⟩, ⟨_, by decide +kernel, rfl, rfl⟩⟩

theorem witness_SeedAndLinesRequests :
    (seedOfBody ([63#8, 1#8, 0#8, 0#8, 7#8] ++ List.replicate 131 0#8) = some (63, [7#32]) ∧
      (getStack running 63).declared = true ∧ 1 ≤ (getStack running 63).capacity ∧ [7#32].Nodup ∧
      (getStack running 63).holder = none ∧ (getStack running 63).pend = [] ∧
      [7#32].any (restsElsewhere running 63) = false ∧ (getStack running 63).blocked = false) ∧
    ∃ es, linesOfBody ([1#8, 0#8, 0#8, 0#8, 31#8, 2#8, 0#8, 0x31#8] ++ List.replicate 128 0#8) = some es ∧ es ≠ [] ∧
      linesFit (linesAfter es running.lines) = true ∧ running.lines.length = 32 :=
  ⟨by decide +kernel, ⟨[{ line := 31, fn := .gate, check := 1, edge := .both }], by decide +kernel⟩⟩

/-- The body of a RELAY of bin 7 from robot 3 along districts 1 and 2 to an ANY taker. -/
def relayBody : List Byte :=
  [7#8, 0#8, 0#8, 0#8, 0#8, 0#8, 0#8, 0#8, 1#8, 0#8, 0#8, 0#8, 3#8, 2#8, 10#8, 0#8, 0#8, 0#8, 1#8, 2#8]
    ++ List.replicate 116 0#8

theorem witness_RelayIntakeMakesRecord :
    ∃ o, RelayOrder.ofBody 6#32 relayBody = some o ∧ o.origin = .robot 3 ∧
      o.refusal { running with robots := [giver, taker, robot 3 1 .free .none] } = none ∧
      (∀ r ∈ running.relays, r.slot ≠ 15) :=
  ⟨_, rfl, by decide +kernel, by decide +kernel, by decide +kernel⟩

theorem witness_WithdrawAndRulingAct :
    withdrawOfBody ([5#8] ++ List.replicate 135 0#8) = some 5#32 ∧ getRelay running 6#32 = none ∧
    (getRelay running 5#32).isSome = true ∧
    rulingOfBody ([5#8, 0#8, 0#8, 0#8, 1#8] ++ List.replicate 131 0#8) = some (5#32, true) ∧
    rulingOfBody ([5#8, 0#8, 0#8, 0#8, 2#8] ++ List.replicate 131 0#8) = some (5#32, false) ∧
    relay.take.state ≠ .query ∧ ({ relay with take := takeSide .query none none }).take.state = .query ∧
    relay.hop < relay.hops ∧ ({ relay with hop := 2 }).hops ≤ 2 := by decide +kernel

theorem witness_TeardownReleasesEverything :
    ∃ r c, getRelay running 5#32 = some r ∧ r.give.robot = some 1 ∧ r.take.robot = some 2 ∧
      getRobot running 1 = some c ∧ c.lentTo = .relay 5#32 ∧
      some 4 ∈ ({ relay with takers := [some 2, some 4] }).takers.drop relay.hop :=
  ⟨_, _, rfl, rfl, rfl, rfl, rfl, by decide⟩

/-! ## Witnesses: what every step keeps -/

theorem witness_StepKeepsMemoryForm : MemoryLaw { running with mem := goodHeader } := by unfold MemoryLaw; decide +kernel

theorem witness_StepKeepsTableLaws :
    RelayTableLaw running ∧ RobotTableLaw running ∧ StackLaw running ∧ SizesLaw running := by
  unfold RelayTableLaw RobotTableLaw StackLaw StackRec.Sound SizesLaw; decide +kernel

theorem witness_StepKeepsRingIndices : KeptLaw running := by
  intro k hk
  obtain rfl : kept = k := Option.some.inj hk
  decide

theorem witness_StepKeepsRegisterLaws : ReservedLaw running ∧ RunLaw running := by
  unfold ReservedLaw; exact ⟨by decide +kernel, rfl⟩

/-- A BEACON during which the host writes a byte. -/
theorem witness_ExchangeFaultStandsUntilReset :
    (Instr.beacon { writes := [⟨0, 8192, 1#8⟩] }).resets = false ∧
    ∃ t, exec (.beacon { writes := [⟨0, 8192, 1#8⟩] }) { running with device := .exchangeFault } = .next t ∧
      t.mem = [(8192, 1#8)] := ⟨rfl, _, rfl, by decide +kernel⟩

theorem witness_ReportsAndExpiriesKeepSettings :
    (Instr.beacon {}).isHop = true ∧ ∃ t, exec (.beacon {}) running = .next t := ⟨rfl, _, rfl⟩

/-- A step, from a state that meets the laws, that answers a next state. -/
theorem witness_a_step_answers_next : ∃ t, step { running with pending := [.tick] } = .next t := ⟨_, rfl⟩

end Sys2Proof.Tests
end

