-- ==== Sys2Proof/Proofs/Placement.lean ====
section
/-!
SUPPORT. The choice among placement candidates (02_placement.md, R23 and R30): the fold of `leastCost` is the library's
`List.argmin`, whose ties go to the earliest entry, and the candidates stand by ascending id, so that the earliest entry
is the one with the lowest id.
-/

namespace Sys2Proof.Machine

/-! ## The least cost of a list -/

theorem leastCost_eq_argmin (costs : List (Nat × Nat)) : leastCost costs = costs.argmin Prod.snd := by
  unfold leastCost List.argmin
  congr 1; funext best c
  cases best <;> rfl

theorem leastCost_eq_none_iff {costs : List (Nat × Nat)} : leastCost costs = none ↔ costs = [] := by
  rw [leastCost_eq_argmin, List.argmin_eq_none]

/-- In a list by ascending key, what stands first has the lower key. -/
theorem key_le_of_idxOf_le {α : Type} [DecidableEq α] {key : α → Nat} {l : List α}
    (sorted : l.Pairwise (key · < key ·)) {a b : α} (ha : a ∈ l) (hb : b ∈ l) (hab : l.idxOf a ≤ l.idxOf b) :
    key a ≤ key b := by
  obtain heq | hlt := hab.eq_or_lt
  · rw [(List.idxOf_inj ha).mp heq]
  · have hkey := List.pairwise_iff_getElem.mp sorted _ _ (List.idxOf_lt_length_of_mem ha)
      (List.idxOf_lt_length_of_mem hb) hlt
    simpa using hkey.le

/-- R30 on a list by ascending id: no entry costs less than the answer, and none of equal cost has a lower id. -/
theorem leastCost_least {costs : List (Nat × Nat)} (sorted : costs.Pairwise (·.1 < ·.1)) {best : Nat × Nat}
    (h : leastCost costs = some best) :
    best ∈ costs ∧ ∀ c ∈ costs, best.2 ≤ c.2 ∧ (c.2 = best.2 → best.1 ≤ c.1) := by
  rw [leastCost_eq_argmin] at h
  obtain ⟨hmem, hleast, hfirst⟩ := List.argmin_eq_some_iff.mp h
  exact ⟨hmem, fun c hc => ⟨hleast c hc, fun heq => key_le_of_idxOf_le sorted hmem hc (hfirst c hc heq.le)⟩⟩

/-! ## The candidates with their costs -/

/-- The candidates by ascending id, each with its cost. -/
def candidateCosts (s : State) (candidate : Nat → StackRec → Bool) (q : PlaceRequest) : List (Nat × Nat) :=
  (stackIds.filter fun i => candidate i (getStack s i)).map fun i => (i, placeCost s (getStack s i) q)

variable {s : State} {candidate : Nat → StackRec → Bool} {q : PlaceRequest}

theorem choose_eq_leastCost : choose s candidate q = leastCost (candidateCosts s candidate q) := rfl

theorem mem_stackIds {i : Nat} : i ∈ stackIds ↔ i < 64 := List.mem_range

theorem mem_candidateCosts {i cost : Nat} :
    (i, cost) ∈ candidateCosts s candidate q ↔
      i < 64 ∧ candidate i (getStack s i) = true ∧ cost = placeCost s (getStack s i) q := by
  simp only [candidateCosts, List.mem_map, List.mem_filter, mem_stackIds, Prod.mk.injEq]
  constructor
  · rintro ⟨_, ⟨hi, hc⟩, rfl, rfl⟩; exact ⟨hi, hc, rfl⟩
  · rintro ⟨hi, hc, rfl⟩; exact ⟨i, ⟨hi, hc⟩, rfl, rfl⟩

theorem candidateCosts_ascending : (candidateCosts s candidate q).Pairwise (·.1 < ·.1) :=
  List.pairwise_map.mpr (List.pairwise_lt_range.filter _)

theorem candidateCosts_eq_nil_iff :
    candidateCosts s candidate q = [] ↔ ∀ i < 64, candidate i (getStack s i) = false := by
  simp [candidateCosts, List.filter_eq_nil_iff, mem_stackIds]

end Sys2Proof.Machine

namespace Sys2Proof

open Machine

/-- Settles O18: the answer is the least entry of `candidateCosts`, which lists exactly the candidates, by ascending id. -/
theorem placementChoosesLeastCost : Obligations.PlacementChoosesLeastCost := by
  intro s candidate q
  rw [choose_eq_leastCost]
  refine ⟨leastCost_eq_none_iff.trans candidateCosts_eq_nil_iff, fun i cost h => ?_⟩
  obtain ⟨hmem, hleast⟩ := leastCost_least candidateCosts_ascending h
  obtain ⟨hi, hcandidate, hcost⟩ := mem_candidateCosts.mp hmem
  exact ⟨hi, hcandidate, hcost, fun j hj hcj => hleast _ (mem_candidateCosts.mpr ⟨hj, hcj, rfl⟩)⟩

end Sys2Proof
end

