-- ==== Sys2Proof/Proofs/StepTimers.lean ====
section
/-!
SUPPORT. The advance of a step timer (07_step_timers_and_exposure.md, R120) and what a TICK does to the relays (R115,
R122): a counting timer's advance is one equation in the two tests of R120, and the exchange area's and the link's part
of the advance leave the relays.
-/

namespace Sys2Proof.Machine

/-! ## A step timer's advance -/

variable {m : Timer}

/-- The timer's next count is its warn value, which is above 0 and not shadowed by the limit (R120). -/
def Timer.reachesWarn (m : Timer) : Bool :=
  0 < m.warn ∧ m.count + 1 = m.warn ∧ (m.limit = 0 ∨ m.warn < m.limit)

/-- The timer's next count is its limit, which is above 0 (R120). -/
def Timer.reachesLimit (m : Timer) : Bool :=
  0 < m.limit ∧ m.count + 1 = m.limit

theorem Timer.reachesWarn_iff :
    m.reachesWarn = true ↔ 0 < m.warn ∧ m.count + 1 = m.warn ∧ (m.limit = 0 ∨ m.warn < m.limit) :=
  decide_eq_true_iff

theorem Timer.reachesLimit_iff : m.reachesLimit = true ↔ 0 < m.limit ∧ m.count + 1 = m.limit :=
  decide_eq_true_iff

/-- A timer that has stopped, or whose count is at its bound, stands. -/
theorem Timer.advance_of_stopped_or_bound (h : m.running = false ∨ m.count = 65535) : m.advance = m := by
  obtain h | h := h <;> simp [Timer.advance, h]

/-- A counting timer's advance; its warn arises only if it has not arisen in this timing. -/
theorem Timer.advance_of_counting (hrun : m.running = true) (hcount : m.count < 65535) :
    m.advance = { m with
      count := m.count + 1
      warned := m.warned || m.reachesWarn
      warnDue := m.warnDue || !m.warned && m.reachesWarn
      limitDue := m.limitDue || m.reachesLimit
      running := !m.reachesLimit } := by
  have hwarn : (decide (m.count + 1 = m.warn) && decide (0 < m.warn) && !m.warned &&
      (decide (m.limit = 0) || decide (m.warn < m.limit))) = (!m.warned && m.reachesWarn) := by
    simp only [Timer.reachesWarn, Bool.decide_and, Bool.decide_or]
    ac_rfl
  have hlimit : (decide (m.count + 1 = m.limit) && decide (0 < m.limit)) = m.reachesLimit := by
    rw [Timer.reachesLimit, Bool.decide_and, Bool.and_comm]
  have hwarned : (m.warned || !m.warned && m.reachesWarn) = (m.warned || m.reachesWarn) := by
    cases m.warned <;> rfl
  simp [Timer.advance, hrun, hcount.ne, hwarn, hlimit, hwarned]

/-! ## The relays at a TICK -/

variable {s : State}

@[simp] theorem advanceSilence_relays : (advanceSilence s).relays = s.relays := by
  unfold advanceSilence; split <;> rfl

@[simp] theorem advancePoll_relays : (advancePoll s).relays = s.relays := by
  unfold advancePoll
  split
  · split <;> rfl
  · rfl

@[simp] theorem advanceTick_relays :
    (advanceTick s).relays = s.relays.map (Relay.advance (s.tick + 1#32) s.hold) := by
  simp [advanceTick]

theorem exec_tick_of_not_idle (h : s.device ≠ .idle) : exec .tick s = .next (advanceTick s) :=
  congrArg _ (if_neg h)

/-- R122: hold keeps both sides' timers from an advance. -/
theorem Relay.advance_timers (now : Tick) (hold : Bool) (r : Relay) :
    ((r.advance now hold).give.timer, (r.advance now hold).take.timer) =
      if hold then (r.give.timer, r.take.timer)
      else (r.give.timer.map Timer.advance, r.take.timer.map Timer.advance) := by
  cases hold <;> rfl

end Sys2Proof.Machine

namespace Sys2Proof

open Machine

/-- Settles O31: a counting timer advances by `Timer.advance_of_counting`, any other stands, and a TICK advances the
timers of every relay. -/
theorem timerCountsToWarnAndLimit : Obligations.TimerCountsToWarnAndLimit := by
  refine ⟨fun m hrun hcount => ?counting, fun m => Timer.advance_of_stopped_or_bound, fun s h =>
    ⟨advanceTick s, exec_tick_of_not_idle h, ?tick⟩⟩
  case counting =>
    rw [Timer.advance_of_counting hrun hcount]
    simp [← Timer.reachesWarn_iff, ← Timer.reachesLimit_iff]
  case tick =>
    simp [Function.comp_def, Relay.advance_timers]

end Sys2Proof
end

/-!
SUPPORT. The Load Checker's arithmetic (08_load_verification.md, R130 and R132): the model's truncated subtractions and
whole-number quotients are the rules' exact differences and floors.
-/

namespace Sys2Proof.Machine

/-! ## A reading in grams -/

/-- R130: the model's truncated difference is the rule's max(0, raw − offset). -/
theorem cast_netReading_mul (offset gain raw : Nat) :
    (((raw - offset) * gain : Nat) : Int) = max 0 ((raw : Int) - offset) * gain := by
  rw [Nat.cast_mul]
  congr 1; omega

theorem gramsOf_eq_floor (offset gain raw : Nat) :
    (gramsOf offset gain raw : Int) = ⌊((max 0 ((raw : Int) - offset) * gain : Int) : Rat) / 256⌋ := by
  rw [← cast_netReading_mul, Int.cast_natCast]
  exact (Rat.floor_natCast_div_natCast ((raw - offset) * gain) 256).symm

theorem gramsOf_mono {offset gain gain' raw raw' : Nat} (hraw : raw ≤ raw') (hgain : gain ≤ gain') :
    gramsOf offset gain raw ≤ gramsOf 0 gain' raw' :=
  Nat.div_le_div_right (Nat.mul_le_mul ((Nat.sub_le raw offset).trans hraw) hgain)

/-! ## The comparison with a reference -/

theorem cast_absDiff (a b : Nat) : (absDiff a b : Int) = |(a : Int) - b| := by
  unfold absDiff
  obtain h | h := le_total a b
  · rw [abs_of_nonpos (by omega)]; omega
  · rw [abs_of_nonneg (by omega)]; omega

theorem cast_tolerance (tn : Tuning) (ref : Nat) :
    (tolerance tn ref : Int) = tn.tolAbs + ⌊((ref * tn.tolRel : Nat) : Rat) / 1024⌋ :=
  congrArg (tn.tolAbs + · : Int → Int) (Rat.floor_natCast_div_natCast _ 1024).symm

theorem weightMatches_iff {tn : Tuning} {w ref : Nat} :
    weightMatches tn w ref = true ↔ absDiff w ref ≤ tolerance tn ref :=
  decide_eq_true_iff

end Sys2Proof.Machine

namespace Sys2Proof

open Machine

/-- Settles O45: the bound is the grams of the largest reading that is not over-range, at offset 0 and the largest gain. -/
theorem gramsFromReading : Obligations.GramsFromReading := by
  intro offset gain raw
  refine ⟨gramsOf_eq_floor offset gain raw, fun hraw hgain => ?_⟩
  calc gramsOf offset gain raw
      ≤ gramsOf 0 4095 4094 := gramsOf_mono hraw hgain
    _ = 65488 := by decide

/-- Settles O46: the model's comparison of whole numbers, read in the integers. -/
theorem weightMatchesWithinTolerance : Obligations.WeightMatchesWithinTolerance := by
  intro tn w ref
  rw [weightMatches_iff, ← cast_absDiff, ← cast_tolerance, Nat.cast_le]

end Sys2Proof

/-!
SUPPORT. What every step keeps of the Exchange Port's own part: host memory's form (log 2), the ranges of the kept header
values (R158, R160), the unnamed places of EVENTS and EVENT_MASK (R184), and EXCHANGE_FAULT (R172). Each is a law of the
port's part alone (`PortLaw`), so that only the port's single updates need an argument.
-/

namespace Sys2Proof.Machine

/-! ## Laws of the port's part -/

/-- The state with all but the Exchange Port's registers, ring and memory at their reset values. -/
def portPart (s : State) : State :=
  { State.reset with
    device := s.device, run := s.run, clearMode := s.clearMode, events := s.events, eventMask := s.eventMask
    exchangeBase := s.exchangeBase, kept := s.kept, gap := s.gap, mem := s.mem, bus := s.bus, busCount := s.busCount }

/-- A property that reads the port's part alone and that the port's single updates keep. -/
structure PortFrame (P : State → Prop) : Prop extends Port P where
  reads : ∀ {s s' : State}, P s → portPart s' = portPart s → P s'

variable {P : State → Prop} {s : State}

theorem PortFrame.quiet (h : PortFrame P) : Quiet P where
  stack _ _ _ _ hs := h.reads hs rfl
  stackRecs _ _ _ hs := h.reads hs rfl
  placeWait _ _ hs := h.reads hs rfl
  standby _ _ _ hs := h.reads hs rfl
  outq _ _ hs := h.reads hs rfl
  robots _ _ _ hs := h.reads hs rfl
  relays _ _ _ hs := h.reads hs rfl

theorem PortFrame.hears (h : PortFrame P) : Hears P where
  toQuiet := h.quiet
  deferred _ _ hs := h.reads hs rfl
  decide _ _ _ _ _ _ hs := h.reads hs rfl
  remove _ _ hs := h.reads hs rfl
  toTail _ _ hs := h.reads hs rfl
  notify _ n hs := notify_port h.toPort n hs
  endSlot _ _ _ _ _ hs := endRelaySlot_port h.toPort _ _ _ _ hs
  anyStack _ _ _ _ hs := h.reads hs rfl
  anyRobot _ _ _ _ hs := h.reads hs rfl
  linkState _ _ _ _ hs := h.reads hs rfl
  rx _ _ hs := h.reads hs rfl
  tx _ _ hs := h.reads hs rfl
  event e s hs := h.event e s hs

/-- A TICK leaves the port's registers, ring and memory. -/
theorem portPart_advanceTick (s : State) : portPart (advanceTick s) = portPart s := by
  have hsilence (s : State) : portPart (advanceSilence s) = portPart s := by unfold advanceSilence; split <;> rfl
  have hpoll (s : State) : portPart (advancePoll s) = portPart s := by
    unfold advancePoll; split
    · split <;> rfl
    · rfl
  rw [advanceTick, hpoll, hsilence]; rfl

/-- A property of the port's part that the registers and a start keep as well. -/
structure PortLaw (P : State → Prop) : Prop extends PortFrame P where
  device : ∀ s d r, s.device ≠ .exchangeFault → d ≠ .exchangeFault → (d = .idle → s.device = .idle) → P s →
    P { s with device := d, run := r }
  started : ∀ s (h : Header), s.device = .idle → h.passes s.exchangeBase.toNat = true → P s →
    P { s with kept := some h.kept, gap := none }
  clearMode : ∀ s b, P s → P { s with clearMode := b }
  readEvents : ∀ s, P s → P { s with events := if s.clearMode then s.events else 0#32 }
  writeEvents : ∀ s v, P s → P (writeEvents v s)
  writeMask : ∀ s v, P s → P (writeMask v s)
  writeBase : ∀ s v, P s → P (writeBase v s)

theorem PortLaw.outer (h : PortLaw P) : Outer P where
  toHears := h.toPortFrame.hears
  hold _ _ hs := h.reads hs rfl
  lines _ _ _ hs := h.reads hs rfl
  image _ hs := writeImage_port h.toPort hs
  tuning _ _ hs := h.reads hs rfl
  addRobot _ _ _ _ hs := h.reads hs rfl
  dropRobots _ _ hs := h.reads hs rfl
  addRelay _ _ _ _ _ _ hs := h.reads hs rfl
  endRequest _ _ _ _ hs := endRequest_port h.toPort _ _ _ hs
  read _ _ _ hs := readExchange_port h.toPort _ _ hs
  write _ _ _ hs := writeExchange_port h.toPort _ _ hs
  takeIndex _ hs := readTakeIndex_port h.toPort hs
  gap _ hs := putGap_port h.toPort hs
  cursor _ _ hs := h.reads hs rfl
  pollCount _ _ hs := h.reads hs rfl
  pollDue _ _ hs := h.reads hs rfl
  device _ _ _ h1 h2 h3 hs := h.device _ _ _ h1 h2 h3 hs
  started s x hd hx hs := h.reads (h.started s x hd hx hs) rfl
  clearMode _ _ hs := h.clearMode _ _ hs
  readEvents s hs := h.reads (h.readEvents s hs) rfl
  writeEvents _ _ hs := h.writeEvents _ _ hs
  writeMask _ _ hs := h.writeMask _ _ hs
  writeBase _ _ hs := h.writeBase _ _ hs
  tick s hs := h.reads hs (portPart_advanceTick s)

/-! ## Writes to the port's registers -/

@[simp] theorem writeEvents_clearMode_on {v : BitVec 32} (h : s.clearMode = true) :
    writeEvents v s = { s with events := s.events &&& ~~~v } := if_pos h

@[simp] theorem writeEvents_clearMode_off {v : BitVec 32} (h : s.clearMode = false) : writeEvents v s = s :=
  if_neg (by simp [h])

@[simp] theorem writeBase_idle {v : BitVec 64} (h : s.device = .idle) :
    writeBase v s = { s with exchangeBase := v } := if_pos h

@[simp] theorem writeBase_not_idle {v : BitVec 64} (h : s.device ≠ .idle) : writeBase v s = s := if_neg h

/-- What a write to EVENTS leaves, in either mode. -/
theorem writeEvents_cases (v : BitVec 32) (s : State) :
    writeEvents v s = { s with events := s.events &&& ~~~v } ∨ writeEvents v s = s := by
  cases h : s.clearMode <;> simp [h]

/-- What a write to EXCHANGE_BASE leaves, in either case. -/
theorem writeBase_cases (v : BitVec 64) (s : State) :
    writeBase v s = { s with exchangeBase := v } ∨ writeBase v s = s := by
  by_cases h : s.device = .idle <;> simp [h]

/-! ## Host memory's form -/

theorem memoryLaw_portLaw : PortLaw MemoryLaw where
  count _ _ hs := Memory.hostWrites_wf _ _ hs
  fault _ _ hs := hs
  put _ _ _ _ hs := Memory.put_wf _ _ _ hs
  landed _ _ _ _ _ hs := Memory.putLanded_wf _ _ _ _ hs
  takeIndex _ _ _ hs := hs
  advance _ _ _ _ hs := hs
  gap _ _ hs := hs
  event _ _ hs := hs
  reads hs he := (congrArg (fun s => Memory.wf s.mem) he :).trans hs
  device _ _ _ _ _ _ hs := hs
  started _ _ _ _ hs := hs
  clearMode _ _ hs := hs
  readEvents _ hs := hs
  writeEvents s v hs := by obtain h | h := writeEvents_cases v s <;> rw [h] <;> exact hs
  writeMask _ _ hs := hs
  writeBase s v hs := by obtain h | h := writeBase_cases v s <;> rw [h] <;> exact hs

theorem memoryLaw_resets : Resets MemoryLaw := ⟨fun _ hs => hs, fun _ hs => hs⟩

/-! ## The kept header values -/

/-- The ranges of the header values kept from a start, and both ring indices in the ring (R158, R160). -/
def Kept.InRange (k : Kept) : Prop :=
  16 ≤ k.slotCount ∧ k.slotCount ≤ 256 ∧ 64 ≤ k.noticeCount ∧ k.noticeCount ≤ 1024
    ∧ 1 ≤ k.pollInterval ∧ k.firstSlot < k.slotCount ∧ k.writeIndex < k.noticeCount ∧ k.takeIndex < k.noticeCount

theorem Kept.InRange.setTakeIndex {k : Kept} {n : Nat} (hk : k.InRange) :
    (if n < k.noticeCount then { k with takeIndex := n } else k).InRange := by
  split
  · rename_i hn
    obtain ⟨h1, h2, h3, h4, h5, h6, h7, -⟩ := hk
    exact ⟨h1, h2, h3, h4, h5, h6, h7, hn⟩
  · exact hk

theorem Kept.InRange.advance {k : Kept} (hk : k.InRange) :
    ({ k with writeIndex := (k.writeIndex + 1) % k.noticeCount } : Kept).InRange := by
  obtain ⟨h1, h2, h3, h4, h5, h6, -, h8⟩ := hk
  exact ⟨h1, h2, h3, h4, h5, h6, Nat.mod_lt _ (by omega), h8⟩

/-- The checks of a start put the values that it keeps in their ranges (R158, R159). -/
theorem Header.kept_inRange {h : Header} {base : Nat} (hp : h.passes base = true) : h.kept.InRange := by
  simp only [Header.passes, Bool.and_eq_true, decide_eq_true_eq] at hp
  obtain ⟨⟨⟨⟨⟨⟨⟨⟨⟨⟨⟨⟨⟨⟨-, h1⟩, h2⟩, h3⟩, h4⟩, -⟩, h5⟩, h6⟩, -⟩, -⟩, -⟩, -⟩, -⟩, -⟩, -⟩ := hp
  exact ⟨h1, h2, h3, h4, Nat.le_max_left _ _, h5, h6, h6⟩

theorem keptLaw_portLaw : PortLaw KeptLaw where
  count _ _ hs := hs
  fault _ _ hs := hs
  put _ _ _ _ hs := hs
  landed _ _ _ _ _ hs := hs
  takeIndex s n _ hs k' hk' := by
    obtain ⟨k, hk, rfl⟩ := Option.map_eq_some_iff.mp hk'
    exact Kept.InRange.setTakeIndex (hs k hk)
  advance s k _ hk hs k' hk' := by
    obtain rfl := Option.some.inj hk'
    exact Kept.InRange.advance (hs k hk)
  gap _ _ hs := hs
  event _ _ hs := hs
  reads hs he k hk := hs k ((congrArg State.kept he :) ▸ hk)
  device _ _ _ _ _ _ hs := hs
  started s h _ hp _ k hk := by obtain rfl := Option.some.inj hk; exact Header.kept_inRange hp
  clearMode _ _ hs := hs
  readEvents _ hs := hs
  writeEvents s v hs := by obtain h | h := writeEvents_cases v s <;> rw [h] <;> exact hs
  writeMask _ _ hs := hs
  writeBase s v hs := by obtain h | h := writeBase_cases v s <;> rw [h] <;> exact hs

theorem keptLaw_resets : Resets KeptLaw := ⟨fun _ _ _ h => (nomatch h), fun _ _ _ h => (nomatch h)⟩

/-! ## The unnamed event places -/

/-- No place of the word but a named event is set (R184). -/
def NamedPlaces (w : BitVec 32) : Prop := w &&& ~~~eventPlaces = 0#32

theorem NamedPlaces.or {v w : BitVec 32} (hv : NamedPlaces v) (hw : NamedPlaces w) : NamedPlaces (v ||| w) := by
  unfold NamedPlaces at *
  rw [BitVec.and_comm, BitVec.and_or_distrib_left, BitVec.and_comm, hv, BitVec.and_comm, hw, BitVec.or_self]

theorem NamedPlaces.and {v : BitVec 32} (w : BitVec 32) (hv : NamedPlaces v) : NamedPlaces (v &&& w) := by
  unfold NamedPlaces at *
  rw [BitVec.and_assoc, BitVec.and_comm w, ← BitVec.and_assoc, hv, BitVec.zero_and]

theorem namedPlaces_bit (e : Event) : NamedPlaces e.bit := by cases e <;> rfl

theorem namedPlaces_zero : NamedPlaces 0#32 := rfl

theorem namedPlaces_and_eventPlaces (v : BitVec 32) : NamedPlaces (v &&& eventPlaces) := by
  unfold NamedPlaces
  rw [BitVec.and_assoc, BitVec.and_not_self]; exact BitVec.and_zero

theorem reservedLaw_iff : ReservedLaw s ↔ NamedPlaces s.events ∧ NamedPlaces s.eventMask := Iff.rfl

theorem reservedLaw_portLaw : PortLaw ReservedLaw where
  count _ _ hs := hs
  fault _ _ hs := ⟨NamedPlaces.or hs.1 (namedPlaces_bit _), hs.2⟩
  put _ _ _ _ hs := hs
  landed _ _ _ _ _ hs := hs
  takeIndex _ _ _ hs := hs
  advance _ _ _ _ hs := hs
  gap _ _ hs := hs
  event e _ hs := ⟨NamedPlaces.or hs.1 (namedPlaces_bit e), hs.2⟩
  reads {s s'} hs he := by
    have h1 : s'.events = s.events := (congrArg State.events he :)
    have h2 : s'.eventMask = s.eventMask := (congrArg State.eventMask he :)
    rw [reservedLaw_iff, h1, h2]; exact hs
  device _ _ _ _ _ _ hs := hs
  started _ _ _ _ hs := hs
  clearMode _ _ hs := hs
  readEvents s hs := by
    refine ⟨?_, hs.2⟩
    change NamedPlaces (if s.clearMode then s.events else 0#32)
    split <;> [exact hs.1; exact namedPlaces_zero]
  writeEvents s v hs := by
    obtain h | h := writeEvents_cases v s <;> rw [h] <;> [exact ⟨NamedPlaces.and _ hs.1, hs.2⟩; exact hs]
  writeMask s v hs := ⟨hs.1, namedPlaces_and_eventPlaces v⟩
  writeBase s v hs := by obtain h | h := writeBase_cases v s <;> rw [h] <;> exact hs

theorem reservedLaw_resets : Resets ReservedLaw := 
  ⟨fun _ _ => ⟨namedPlaces_zero, namedPlaces_zero⟩, fun _ _ => ⟨namedPlaces_zero, namedPlaces_zero⟩⟩

/-! ## EXCHANGE_FAULT -/

/-- The device stands in EXCHANGE_FAULT, and the host's writes still to land bring memory to `m` (R172). -/
def FaultStands (m : List Host.Cell) (s : State) : Prop :=
  s.device = .exchangeFault ∧ Memory.hostWrites s.mem s.bus.writes = m

/-- In EXCHANGE_FAULT the port makes no access, so that its updates need no argument. -/
theorem faultStands_portLaw (m : List Host.Cell) : PortLaw (FaultStands m) where
  count _ hd hs := absurd hs.1 hd
  fault _ hd hs := absurd hs.1 hd
  put _ _ _ hd hs := absurd hs.1 hd
  landed _ _ _ _ hd hs := absurd hs.1 hd
  takeIndex _ _ hd hs := absurd hs.1 hd
  advance _ _ hd _ hs := absurd hs.1 hd
  gap _ _ hs := hs
  event _ _ hs := hs
  reads hs he := ⟨(congrArg State.device he :).trans hs.1,
    (congrArg (fun s => Memory.hostWrites s.mem s.bus.writes) he :).trans hs.2⟩
  device _ _ _ hd _ _ hs := absurd hs.1 hd
  started _ _ hd _ hs := nomatch hs.1.symm.trans hd
  clearMode _ _ hs := hs
  readEvents _ hs := hs
  writeEvents s v hs := by obtain h | h := writeEvents_cases v s <;> rw [h] <;> exact hs
  writeMask _ _ hs := hs
  writeBase s v hs := by obtain h | h := writeBase_cases v s <;> rw [h] <;> exact hs

/-- The commands that make no exchange access and carry no bus operand. -/
def isPlain : Instr → Bool
  | .powerOnReset | .reset | .runClear | .clearMode _ | .eventsRead | .eventsWrite _ | .eventMaskWrite _
  | .exchangeBaseWrite _ | .tick | .transmitStart | .frameSent => true
  | _ => false

/-- A command with a bus operand reads nothing of the operand that stood before it. -/
theorem exec_beginBus {c : Instr} (hc : isPlain c = false) (b : Bus) (s : State) :
    exec c (beginBus b s) = exec c s := by
  cases c <;> first | rfl | cases hc

theorem bus_of_isPlain {c : Instr} (hc : isPlain c = true) : c.bus = {} := by
  cases c <;> first | rfl | cases hc

/-- A command with a bus operand that completes runs a rule between the begin and the end of the operand. -/
theorem exec_withBus {c : Instr} {t : State} (hc : isPlain c = false) (he : exec c s = .next t) :
    ∃ f, withBus c.bus f s = .next t := by
  cases c with
  | rawLineChange line level bus =>
    change execRawLineChange line level bus s = .next t at he
    unfold execRawLineChange at he
    split at he <;> [exact ⟨_, he⟩; cases he]
  | debounceExpiry line bus =>
    change execDebounceExpiry line bus s = .next t at he
    unfold execDebounceExpiry at he
    split at he <;> [exact ⟨_, he⟩; cases he]
  | stepWarn tag side bus => simp only [exec, execStepWarn] at he; exact ⟨_, he⟩
  | frameAbandon bytes bus => simp only [exec, execFrameAbandon] at he; exact ⟨_, he⟩
  | arrived robot seq x y bus => exact ⟨fun s => takeFrame { s with rx := [] } _, he⟩
  | refused robot seq bus => exact ⟨fun s => takeFrame { s with rx := [] } _, he⟩
  | setDone robot seq level bus => exact ⟨fun s => takeFrame { s with rx := [] } _, he⟩
  | liftDone robot seq level load bus => exact ⟨fun s => takeFrame { s with rx := [] } _, he⟩
  | position robot x y bus => exact ⟨fun s => takeFrame { s with rx := [] } _, he⟩
  | fault robot bus => exact ⟨fun s => takeFrame { s with rx := [] } _, he⟩
  | beacon bus => exact ⟨fun s => takeFrame { s with rx := [] } _, he⟩
  | _ => first | exact ⟨_, he⟩ | cases hc

/-- A plain command that is no reset keeps EXCHANGE_FAULT and host memory. -/
theorem exec_plain_faultStands {c : Instr} {t : State} (hc : isPlain c = true) (hr : c.isReset = false)
    (hd : s.device = .exchangeFault) (he : exec c s = .next t) : t.device = .exchangeFault ∧ t.mem = s.mem := by
  cases c with
  | runClear => cases he; unfold clearRun; simp [hd]
  | clearMode mode => cases he; exact ⟨hd, rfl⟩
  | eventsRead => cases he; exact ⟨hd, rfl⟩
  | eventsWrite value =>
    cases he
    obtain h | h := writeEvents_cases value s <;> rw [h] <;> exact ⟨hd, rfl⟩
  | eventMaskWrite value => cases he; exact ⟨hd, rfl⟩
  | exchangeBaseWrite value =>
    cases he
    obtain h | h := writeBase_cases value s <;> rw [h] <;> exact ⟨hd, rfl⟩
  | tick =>
    cases he
    have hp := portPart_advanceTick s
    rw [if_neg (by simp [hd])]
    exact ⟨(congrArg State.device hp :).trans hd, (congrArg State.mem hp :)⟩
  | transmitStart =>
    cases he
    split
    · split <;> exact ⟨hd, rfl⟩
    · exact ⟨hd, rfl⟩
  | frameSent => cases he; split <;> exact ⟨hd, rfl⟩
  | powerOnReset => cases hr
  | reset => cases hr
  | _ => cases hc

end Sys2Proof.Machine

namespace Sys2Proof

open Machine

/-- Settles O55: host memory's form is a law of the port's part, and landing host writes keep it. -/
theorem stepKeepsMemoryForm : Obligations.StepKeepsMemoryForm := fun _ _ he hs =>
  step_keeps memoryLaw_portLaw.outer memoryLaw_resets (fun _ _ hs => hs) (fun _ hs => Memory.hostWrites_wf _ _ hs)
    (fun _ _ hs => hs) he hs

/-- Settles O57: the ranges are a law of the port's part, which the checks of a start establish. -/
theorem stepKeepsRingIndices : Obligations.StepKeepsRingIndices := fun _ _ he hs =>
  step_keeps keptLaw_portLaw.outer keptLaw_resets (fun _ _ hs => hs) (fun _ hs => hs) (fun _ _ hs => hs) he hs

/-- Settles O59: a command with a bus operand keeps `FaultStands` of the memory that the host's writes leave; the others
make no access at all. -/
theorem exchangeFaultStandsUntilReset : Obligations.ExchangeFaultStandsUntilReset := by
  intro c s t hc hd he
  obtain ⟨hr, hb⟩ : c.isReset = false ∧ c.bus.reset = none := by simpa [Instr.resets] using hc
  cases hp : isPlain c
  case true =>
    rw [bus_of_isPlain hp]
    exact exec_plain_faultStands hp hr hd he
  case false =>
    rw [← exec_beginBus hp (inForce c.bus) s] at he
    have hs : FaultStands (Memory.hostWrites s.mem c.bus.writes) (beginBus (inForce c.bus) s) :=
      ⟨hd, by rw [inForce_of_no_reset hb]; rfl⟩
    have ht := exec_keeps (faultStands_portLaw _).outer c (fun h => by simp [hc] at h) (fun h => h)
      (fun _ hs => hs) he hs
    obtain ⟨f, hf⟩ := exec_withBus hp he
    rw [withBus_of_no_reset _ hb] at hf
    cases hf
    exact ht

end Sys2Proof

/-!
SUPPORT. What every step keeps of the tables: the relay table and its distinct tags and slots (R84), the robot table in
the order of its ids (R100), the bounds of every stack's lists (R4, R12), and the sizes (R1, R106, R148). Each is a law of
the tables alone (`TableLaw`).
-/

namespace Sys2Proof.Machine

/-! ## Laws of the tables -/

/-- The state with all but the tables at their reset values. -/
def tablePart (s : State) : State :=
  { State.reset with
    stackRecs := s.stackRecs, relays := s.relays, robots := s.robots, standby := s.standby, lines := s.lines }

/-- A property that reads the tables alone and that the single updates of the tables keep. -/
structure TableLaw (P : State → Prop) : Prop where
  reads : ∀ {s s' : State}, P s → tablePart s' = tablePart s → P s'
  stack : ∀ s i f, ((getStack s i).Sound → (f (getStack s i)).Sound) → P s → P (modStack i f s)
  stackRecs : ∀ s (g : StackRec → StackRec), (∀ k, k.Sound → (g k).Sound) → P s →
    P { s with stackRecs := s.stackRecs.map g }
  standby : ∀ s v, v.length = s.standby.length → P s → P { s with standby := v }
  lines : ∀ s v, v.length = s.lines.length → P s → P { s with lines := v }
  robots : ∀ s (g : Robot → Robot), (∀ c, (g c).id = c.id) → P s → P { s with robots := s.robots.map g }
  addRobot : ∀ s d, s.robots.length < Config.robotMax → getRobot s d.robot = none → P s →
    P { s with robots := insertRobot (newRobot d) s.robots }
  dropRobots : ∀ s (p : Robot → Bool), P s → P { s with robots := s.robots.filter p }
  relays : ∀ s (g : Relay → Relay), (∀ r, (g r).tag = r.tag ∧ (g r).slot = r.slot) → P s →
    P { s with relays := s.relays.map g }
  remove : ∀ s t, P s → P (removeRelay t s)
  toTail : ∀ s t, P s → P (toTail t s)
  addRelay : ∀ s (o : RelayOrder) slot, s.relays.length < Config.relayMax → getRelay s o.tag = none →
    slotActive s slot = false → P s → P { s with relays := s.relays ++ [o.record slot] }

variable {P : State → Prop} {s : State}

theorem TableLaw.port (h : TableLaw P) : Port P where
  count _ _ hs := h.reads hs rfl
  fault _ _ hs := h.reads hs rfl
  put _ _ _ _ hs := h.reads hs rfl
  landed _ _ _ _ _ hs := h.reads hs rfl
  takeIndex _ _ _ hs := h.reads hs rfl
  advance _ _ _ _ hs := h.reads hs rfl
  gap _ _ hs := h.reads hs rfl
  event _ _ hs := h.reads hs rfl

theorem TableLaw.hears (h : TableLaw P) : Hears P where
  stack s i f hf hs := h.stack s i f hf.sound hs
  stackRecs s g hg hs := h.stackRecs s g (fun k => (hg k).sound) hs
  placeWait _ _ hs := h.reads hs rfl
  standby := h.standby
  outq _ _ hs := h.reads hs rfl
  robots s g hg hs := h.robots s g (fun c => (hg c).id) hs
  relays s g hg hs := h.relays s g (fun r => ⟨(hg r).tag, (hg r).slot⟩) hs
  deferred _ _ hs := h.reads hs rfl
  decide s t _ code _ _ hs := h.relays s _ (fun r => by split <;> exact ⟨rfl, rfl⟩) hs
  remove := h.remove
  toTail := h.toTail
  notify _ n hs := notify_port h.port n hs
  endSlot _ _ _ _ _ hs := endRelaySlot_port h.port _ _ _ _ hs
  anyStack := h.stack
  anyRobot s r f hf hs := h.robots s _ (fun c => by split <;> [exact hf c; rfl]) hs
  linkState _ _ _ _ hs := h.reads hs rfl
  rx _ _ hs := h.reads hs rfl
  tx _ _ hs := h.reads hs rfl
  event _ _ hs := h.reads hs rfl

/-- A TICK advances the relays and the lines and no other table. -/
theorem tablePart_advanceTick (s : State) : tablePart (advanceTick s) = tablePart { s with
    relays := s.relays.map (Relay.advance (s.tick + 1#32) s.hold), lines := s.lines.map Line.advance } := by
  have hsilence (s : State) : tablePart (advanceSilence s) = tablePart s := by unfold advanceSilence; split <;> rfl
  have hpoll (s : State) : tablePart (advancePoll s) = tablePart s := by
    unfold advancePoll; split
    · split <;> rfl
    · rfl
  rw [advanceTick, hpoll, hsilence]; rfl

theorem TableLaw.outer (h : TableLaw P) : Outer P where
  toHears := h.hears
  hold _ _ hs := h.reads hs rfl
  lines := h.lines
  image _ hs := writeImage_port h.port hs
  tuning _ _ hs := h.reads hs rfl
  addRobot := h.addRobot
  dropRobots := h.dropRobots
  addRelay := h.addRelay
  endRequest _ _ _ _ hs := endRequest_port h.port _ _ _ hs
  read _ _ _ hs := readExchange_port h.port _ _ hs
  write _ _ _ hs := writeExchange_port h.port _ _ hs
  takeIndex _ hs := readTakeIndex_port h.port hs
  gap _ hs := putGap_port h.port hs
  cursor _ _ hs := h.reads hs rfl
  pollCount _ _ hs := h.reads hs rfl
  pollDue _ _ hs := h.reads hs rfl
  device _ _ _ _ _ _ hs := h.reads hs rfl
  started _ _ _ _ hs := h.reads hs rfl
  clearMode _ _ hs := h.reads hs rfl
  readEvents _ hs := h.reads hs rfl
  writeEvents s v hs := by obtain h1 | h1 := writeEvents_cases v s <;> rw [h1] <;> [exact h.reads hs rfl; exact hs]
  writeMask _ _ hs := h.reads hs rfl
  writeBase s v hs := by obtain h1 | h1 := writeBase_cases v s <;> rw [h1] <;> [exact h.reads hs rfl; exact hs]
  tick s hs := by
    have h1 := h.relays s (Relay.advance (s.tick + 1#32) s.hold) (fun _ => ⟨rfl, rfl⟩) hs
    exact h.reads (h.lines { s with relays := s.relays.map (Relay.advance (s.tick + 1#32) s.hold) } _
      (List.length_map ..) h1) (tablePart_advanceTick s)

/-- A law of the tables that the resets keep is kept by every step. -/
theorem TableLaw.step (h : TableLaw P) (hr : Resets P) {t : State} (he : step s = .next t) (hs : P s) : P t :=
  step_keeps h.outer hr (fun _ _ hs => h.reads hs rfl) (fun _ hs => h.reads hs rfl) (fun _ _ hs => h.reads hs rfl) he hs

/-- A field of the tables is the same when the tables are. -/
theorem tablePart_field {α : Type} {s s' : State} (f : State → α) (h : tablePart s' = tablePart s)
    (hf : ∀ s, f (tablePart s) = f s) : f s' = f s := by rw [← hf s', h, hf]

/-! ## The relay table -/

theorem slotActive_eq_false {slot : Nat} : slotActive s slot = false ↔ ∀ r ∈ s.relays, r.slot ≠ slot := by
  simp [slotActive]

theorem getRelay_eq_none {t : Tag} : getRelay s t = none ↔ ∀ r ∈ s.relays, r.tag ≠ t := by
  simp [getRelay]

theorem relayTableLaw_of_relays_eq {s' : State} (hs : RelayTableLaw s) (h : s'.relays = s.relays) :
    RelayTableLaw s' := by
  unfold RelayTableLaw; rw [h]; exact hs

/-- Relays taken out of the table, or put in another order, keep its law. -/
theorem RelayTableLaw.subperm {s' : State} (h : s'.relays.Subperm s.relays) (hs : RelayTableLaw s) :
    RelayTableLaw s' := by
  obtain ⟨hlen, htag, hslot⟩ := hs
  obtain ⟨l, hp, hsub⟩ := h
  refine ⟨by rw [← hp.length_eq]; exact hsub.length_le.trans hlen, ?_, ?_⟩
  · exact (hp.map _).nodup_iff.mp (htag.sublist (hsub.map _))
  · exact (hp.map _).nodup_iff.mp (hslot.sublist (hsub.map _))

theorem relayTableLaw_tableLaw : TableLaw RelayTableLaw where
  reads hs he := relayTableLaw_of_relays_eq hs (tablePart_field State.relays he fun _ => rfl)
  stack _ _ _ _ hs := hs
  stackRecs _ _ _ hs := hs
  standby _ _ _ hs := hs
  lines _ _ _ hs := hs
  robots _ _ _ hs := hs
  addRobot _ _ _ _ hs := hs
  dropRobots _ _ hs := hs
  relays s g hg hs := by
    obtain ⟨hlen, htag, hslot⟩ := hs
    have h1 : Relay.tag ∘ g = Relay.tag := funext fun r => (hg r).1
    have h2 : Relay.slot ∘ g = Relay.slot := funext fun r => (hg r).2
    exact ⟨by simpa using hlen, by simpa [h1] using htag, by simpa [h2] using hslot⟩
  remove _ _ hs := hs.subperm List.filter_sublist.subperm
  toTail s t hs := hs.subperm (by
    have := List.filter_append_perm (fun r => r.tag != t) s.relays
    simp only [bne, Bool.not_not] at this
    exact this.subperm)
  addRelay s o slot hlen htag hslot hs := by
    obtain ⟨-, h2, h3⟩ := hs
    rw [getRelay_eq_none] at htag
    rw [slotActive_eq_false] at hslot
    refine ⟨by simpa using hlen, ?_, ?_⟩
    · simpa [List.nodup_append, h2, RelayOrder.record] using fun r hr => htag r hr
    · simpa [List.nodup_append, h3, RelayOrder.record] using fun r hr => hslot r hr

theorem relayTableLaw_empty (h : s.relays = []) : RelayTableLaw s := by
  unfold RelayTableLaw; rw [h]; simp

theorem relayTableLaw_resets : Resets RelayTableLaw :=
  ⟨fun _ _ => relayTableLaw_empty rfl, fun _ _ => relayTableLaw_empty rfl⟩

/-! ## The robot table -/

theorem getRobot_eq_none {r : Nat} : getRobot s r = none ↔ ∀ c ∈ s.robots, c.id ≠ r := by
  simp [getRobot]

theorem mem_insertRobot {c d : Robot} {l : List Robot} : d ∈ insertRobot c l ↔ d = c ∨ d ∈ l := by
  induction l with
  | nil => simp [insertRobot]
  | cons r l ih =>
    unfold insertRobot
    split
    · simp
    · simp [ih, or_left_comm]

theorem length_insertRobot (c : Robot) (l : List Robot) : (insertRobot c l).length = l.length + 1 := by
  induction l with
  | nil => rfl
  | cons r l ih => unfold insertRobot; split <;> simp [ih]

/-- A context of a new id enters an ascending table at its place. -/
theorem insertRobot_ascending {c : Robot} {l : List Robot} (hc : ∀ r ∈ l, r.id ≠ c.id)
    (hl : (l.map Robot.id).Pairwise (· < ·)) : ((insertRobot c l).map Robot.id).Pairwise (· < ·) := by
  rw [List.pairwise_map] at *
  induction l with
  | nil => exact List.pairwise_singleton _ _
  | cons r l ih =>
    obtain ⟨hr, hl'⟩ := List.pairwise_cons.mp hl
    have hne := hc r List.mem_cons_self
    unfold insertRobot
    split
    · rename_i hlt
      refine List.pairwise_cons.mpr ⟨fun d hd => ?_, hl⟩
      obtain rfl | hd := List.mem_cons.mp hd
      · exact hlt
      · exact hlt.trans (hr d hd)
    · rename_i hge
      refine List.pairwise_cons.mpr ⟨fun d hd => ?_, ih (fun d hd => hc d (List.mem_cons_of_mem _ hd)) hl'⟩
      obtain rfl | hd := mem_insertRobot.mp hd
      · omega
      · exact hr d hd

theorem robotTableLaw_of_robots_eq {s' : State} (hs : RobotTableLaw s) (h : s'.robots = s.robots) :
    RobotTableLaw s' := by
  unfold RobotTableLaw; rw [h]; exact hs

theorem robotTableLaw_tableLaw : TableLaw RobotTableLaw where
  reads hs he := robotTableLaw_of_robots_eq hs (tablePart_field State.robots he fun _ => rfl)
  stack _ _ _ _ hs := hs
  stackRecs _ _ _ hs := hs
  standby _ _ _ hs := hs
  lines _ _ _ hs := hs
  robots s g hg hs := by
    have h1 : Robot.id ∘ g = Robot.id := funext hg
    exact ⟨by simpa using hs.1, by simpa [h1] using hs.2⟩
  addRobot s d hlen hd hs := by
    refine ⟨?_, insertRobot_ascending (getRobot_eq_none.mp hd) hs.2⟩
    change (insertRobot _ _).length ≤ _
    rw [length_insertRobot]; exact hlen
  dropRobots s p hs := ⟨(List.length_filter_le _ _).trans hs.1, hs.2.sublist (List.filter_sublist.map _)⟩
  relays _ _ _ hs := hs
  remove _ _ hs := hs
  toTail _ _ hs := hs
  addRelay _ _ _ _ _ _ hs := hs

theorem robotTableLaw_empty (h : s.robots = []) : RobotTableLaw s := by
  unfold RobotTableLaw; rw [h]; simp

theorem robotTableLaw_resets : Resets RobotTableLaw :=
  ⟨fun _ _ => robotTableLaw_empty rfl, fun _ _ => robotTableLaw_empty rfl⟩

/-! ## The stacks -/

theorem StackRec.sound_empty : ({} : StackRec).Sound := by simp [StackRec.Sound]

theorem stackLaw_tableLaw : TableLaw StackLaw where
  reads hs he k hk := hs k (tablePart_field State.stackRecs he (fun _ => rfl) ▸ hk)
  stack s i f hf hs k hk := by
    obtain ⟨j, hj, rfl⟩ := List.mem_iff_getElem.mp hk
    have hj' : j < s.stackRecs.length := by simpa using hj
    simp only [modStack_stackRecs, List.getElem_modify]
    have hsj := hs _ (List.getElem_mem hj')
    split
    · subst_vars
      have hg : getStack s j = s.stackRecs[j] := by simp [getStack, hj']
      rw [hg] at hf; exact hf hsj
    · exact hsj
  stackRecs s g hg hs k hk := by
    obtain ⟨k', hk', rfl⟩ := List.mem_map.mp hk
    exact hg k' (hs k' hk')
  standby _ _ _ hs := hs
  lines _ _ _ hs := hs
  robots _ _ _ hs := hs
  addRobot _ _ _ _ hs := hs
  dropRobots _ _ hs := hs
  relays _ _ _ hs := hs
  remove _ _ hs := hs
  toTail _ _ hs := hs
  addRelay _ _ _ _ _ _ hs := hs

theorem stackLaw_empty (h : s.stackRecs = List.replicate Config.stackCount {}) : StackLaw s := by
  intro k hk
  rw [h] at hk
  rw [List.eq_of_mem_replicate hk]
  exact StackRec.sound_empty

theorem stackLaw_resets : Resets StackLaw := ⟨fun _ _ => stackLaw_empty rfl, fun _ _ => stackLaw_empty rfl⟩

/-- Without a start no values are kept. -/
theorem keptLaw_none (h : s.kept = none) : KeptLaw s := by
  intro k hk
  rw [h] at hk
  cases hk

/-! ## The sizes -/

theorem sizesLaw_tableLaw : TableLaw SizesLaw where
  reads {s s'} hs he := by
    unfold SizesLaw
    rw [tablePart_field State.stackRecs he fun _ => rfl, tablePart_field State.lines he fun _ => rfl,
      tablePart_field State.standby he fun _ => rfl]
    exact hs
  stack _ _ _ _ hs := ⟨(List.length_modify ..).trans hs.1, hs.2⟩
  stackRecs _ _ _ hs := ⟨(List.length_map ..).trans hs.1, hs.2⟩
  standby _ _ hv hs := ⟨hs.1, hs.2.1, hv.trans hs.2.2⟩
  lines _ _ hv hs := ⟨hs.1, hv.trans hs.2.1, hs.2.2⟩
  robots _ _ _ hs := hs
  addRobot _ _ _ _ hs := hs
  dropRobots _ _ hs := hs
  relays _ _ _ hs := hs
  remove _ _ hs := hs
  toTail _ _ hs := hs
  addRelay _ _ _ _ _ _ hs := hs

theorem sizesLaw_resets : Resets SizesLaw :=
  ⟨fun _ hs => ⟨List.length_replicate, (List.length_map ..).trans hs.2.1, List.length_replicate⟩,
    fun _ hs => ⟨List.length_replicate, (List.length_map ..).trans hs.2.1, List.length_replicate⟩⟩

end Sys2Proof.Machine

namespace Sys2Proof

open Machine

/-- Settles O56: each of the four is a law of the tables. -/
theorem stepKeepsTableLaws : Obligations.StepKeepsTableLaws := fun _ _ he =>
  ⟨relayTableLaw_tableLaw.step relayTableLaw_resets he, robotTableLaw_tableLaw.step robotTableLaw_resets he,
    stackLaw_tableLaw.step stackLaw_resets he, sizesLaw_tableLaw.step sizesLaw_resets he⟩

/-- Settles O4: the tables are empty, host memory is unwritten and no start has been made. -/
theorem resetMeetsLaws : Obligations.ResetMeetsLaws :=
  ⟨rfl, relayTableLaw_empty rfl, robotTableLaw_empty rfl, stackLaw_empty rfl,
    ⟨List.length_replicate, List.length_replicate, List.length_replicate⟩, keptLaw_none rfl,
    ⟨namedPlaces_zero, namedPlaces_zero⟩, rfl⟩

end Sys2Proof

/-!
SUPPORT. RUN against the device state (R161), and what the fleet link and the clocks leave of the settings. RUN moves with
the device state only in a start, a stop and a broken chain; every other rule keeps both, but for an entry into
EXCHANGE_FAULT (`RunStands`).
-/

namespace Sys2Proof.Machine

variable {P : State → Prop} {s : State}

/-! ## What the Sense Unit and the requests leave of the port's part -/

theorem holdOn_frame (h : PortFrame P) (c : HoldCause) (hs : P s) : P (holdOn c s) :=
  notify_port h.toPort _ (h.event _ _ (h.reads hs rfl))

theorem holdOff_frame (h : PortFrame P) (hs : P s) : P (holdOff s) :=
  notify_port h.toPort _ (h.event _ _ (h.reads hs rfl))

theorem makeGateTest_frame (h : PortFrame P) (hs : P s) : P (makeGateTest s) := by
  unfold makeGateTest; split <;> [exact holdOn_frame h _ hs; exact hs]

theorem writeHold_frame (h : PortFrame P) (hs : P s) : P (writeHold s) := by
  unfold writeHold; split <;> [exact hs; exact holdOn_frame h _ hs]

theorem writeResume_frame (h : PortFrame P) (hs : P s) : P (writeResume s) := by
  unfold writeResume; split <;> [exact hs; exact holdOff_frame h hs]

theorem modLine_frame (h : PortFrame P) (n : Nat) (f : Line → Line) (hs : P s) : P (modLine n f s) := h.reads hs rfl

theorem lineActs_frame (h : PortFrame P) (f : LineFn) (b : Bool) (hs : P s) : P (lineActs f b s) := by
  cases f with
  | off => exact hs
  | overfill i => cases b <;> [exact overfillFall_keeps h.quiet i hs; exact overfillRise_keeps h.hears.toInner i hs]
  | gate => exact makeGateTest_frame h hs

theorem debounced_frame (h : PortFrame P) (n : Nat) (b : Bool) (hs : P s) : P (debounced n b s) := by
  have h1 := writeImage_port h.toPort (modLine_frame h n (fun l => { l with level := b, candidate := none }) hs)
  refine lineActs_frame h _ _ ?_
  split <;> [exact notify_port h.toPort _ h1; exact h1]

theorem rawChanged_frame (h : PortFrame P) (n : Nat) (b : Bool) (hs : P s) : P (rawChanged n b s) := by
  have h1 := modLine_frame h n (fun l => { l with raw := b }) hs
  unfold rawChanged; dsimp only
  split
  · exact hs
  split
  · exact h1
  split
  · exact modLine_frame h _ _ h1
  split
  · exact debounced_frame h _ _ h1
  · exact modLine_frame h _ _ h1

theorem debounceExpired_frame (h : PortFrame P) (n : Nat) (hs : P s) : P (debounceExpired n s) := by
  unfold debounceExpired; split
  · split
    · exact modLine_frame h _ _ (debounced_frame h _ _ (modLine_frame h _ _ hs))
    · exact hs
  · exact hs

theorem letGoLine_frame (h : PortFrame P) (e : LineEntry) (hs : P s) : P (letGoLine s e) := by
  unfold letGoLine; split
  · exact hs
  · have h1 (i : Nat) : P (modStack i (fun k => { k with senseLine := none }) s) := h.reads hs rfl
    dsimp only; split <;> [exact overfillFall_keeps h.quiet _ (h1 _); exact h1 _]

theorem takeLine_frame (h : PortFrame P) (e : LineEntry) (hs : P s) : P (takeLine s e) := by
  unfold takeLine; split
  · have h1 (i : Nat) : P (modStack i (fun k => { k with senseLine := some e.line }) s) := h.reads hs rfl
    dsimp only; split <;> [exact overfillRise_keeps h.hears.toInner _ (h1 _); exact h1 _]
  · exact hs
  · exact hs

theorem applyLines_frame (h : PortFrame P) (es : List LineEntry) (hs : P s) : P (applyLines es s) := by
  have h1 := foldl_keeps (fun _ e hs => letGoLine_frame h e hs) (changedEntries s es) hs
  have h2 := foldl_keeps (f := settleLine) (fun _ e hs => modLine_frame h _ _ hs) (changedEntries s es) h1
  have h3 := makeGateTest_frame h (foldl_keeps (fun _ e hs => takeLine_frame h e hs) (changedEntries s es) h2)
  unfold applyLines; dsimp only; split <;> [exact h3; exact writeImage_port h.toPort h3]

theorem intake_frame (h : PortFrame P) (o : RelayOrder) (slot : Nat) (hs : P s) : P (intake o slot s) := by
  have h1 : P { s with relays := s.relays ++ [o.record slot] } := h.reads hs rfl
  have h2 := situationChanged_keeps h.hears.toInner o.tag false
    (foldl_keeps (f := fun s r => lend r o.tag s) (fun _ _ hs => lend_keeps h.quiet _ _ hs) (o.takers.filterMap id)
      (claimOrigin_keeps h.hears.toMoves o h1))
  unfold intake; dsimp only
  split <;> exact startHop_keeps h.quiet _ _ _ _ h2

theorem RequestKind.run_frame (h : PortFrame P) (k : RequestKind) (slot : Nat) (tag : Tag) (b : List Byte) (hs : P s) :
    P (k.run slot tag b s).2 := by
  cases k with
  | declareStack => exact requestDeclareStack_keeps h.hears.toMoves b hs
  | declareRobot =>
    simp only [RequestKind.run, requestDeclareRobot]
    repeat' split
    all_goals first | exact hs | exact h.reads hs rfl
  | retire =>
    simp only [RequestKind.run, requestRetire]
    repeat' split
    all_goals first | exact hs | exact h.reads hs rfl | exact stackChanged_keeps h.quiet _ (h.reads hs rfl)
  | tune => simp only [RequestKind.run, requestTune]; split <;> [exact hs; exact h.reads hs rfl]
  | lines =>
    simp only [RequestKind.run, requestLines]
    split
    · exact hs
    · split <;> [exact applyLines_frame h _ hs; exact hs]
  | standby => exact requestStandby_keeps h.hears.toInner b hs
  | seed => exact requestSeed_keeps h.hears.toMoves b hs
  | relay =>
    simp only [RequestKind.run, requestRelay]
    split
    · exact hs
    · split <;> [exact hs; exact intake_frame h _ _ hs]
  | withdraw => exact requestWithdraw_keeps h.hears.toInner b hs
  | ruling => exact requestRuling_keeps h.hears.toInner b hs

theorem dispatch_frame (h : PortFrame P) (slot kind : Nat) (tag : Tag) (b : List Byte) (hs : P s) :
    P (dispatch slot kind tag b s) := by
  have h1 : P (runSlot slot kind tag b s).2 := by
    unfold runSlot; split
    · exact hs
    · split <;> [exact hs; exact RequestKind.run_frame h _ _ _ _ hs]
  unfold dispatch; split
  · rename_i heq; rw [heq] at h1
    exact actDeferred_keeps h.hears.toInner (endRequest_port h.toPort _ _ _ h1)
  · rename_i heq; rw [heq] at h1
    exact actDeferred_keeps h.hears.toInner h1

theorem takeSlot_frame (h : PortFrame P) (k : Kept) (slot : Nat) (hs : P s) : P (takeSlot k slot s) := by
  have h1 := readExchange_port h.toPort (k.slotAddr slot + 1) 143 hs
  unfold takeSlot; split
  · rename_i heq; rw [heq] at h1; exact h1
  · rename_i heq; rw [heq] at h1
    have h2 := writeExchange_port h.toPort (k.slotAddr slot) [2#8] h1
    dsimp only
    split <;> [exact h2; exact dispatch_frame h _ _ _ _ (h.reads h2 rfl)]

theorem readCursor_port (h : Port P) (k : Kept) (c : Cursor) (hs : P s) : P (readCursor k c s).2 := by
  cases c with
  | before i =>
    have h1 := readExchange_port h (k.slotAddr i) 1 hs
    simp only [readCursor]
    split <;> (rename_i heq; rw [heq] at h1; exact h1)
  | anchor a =>
    have h1 := readExchange_port h (k.slotAddr a + 2) 2 hs
    simp only [readCursor]
    split
    · rename_i heq; rw [heq] at h1; exact h1
    · rename_i link s1 heq; rw [heq] at h1
      split
      · exact h1
      · split
        · have h2 := readExchange_port h (k.slotAddr (word16At link 0)) 1 h1
          split <;> (rename_i heq2; rw [heq2] at h2; exact h2)
        · exact h1

/-! ## RUN -/

/-- The device state and RUN stand, or the device has entered EXCHANGE_FAULT. -/
def RunStands (d : DeviceState) (b : Bool) (s : State) : Prop :=
  s.device = .exchangeFault ∨ s.device = d ∧ s.run = b

theorem runStands_frame (d : DeviceState) (b : Bool) : PortFrame (RunStands d b) where
  count _ _ hs := hs
  fault _ _ _ := .inl rfl
  put _ _ _ _ hs := hs
  landed _ _ _ _ _ hs := hs
  takeIndex _ _ _ hs := hs
  advance _ _ _ _ hs := hs
  gap _ _ hs := hs
  event _ _ hs := hs
  reads {s s'} hs he := by
    have h1 : s'.device = s.device := (congrArg State.device he :)
    have h2 : s'.run = s.run := (congrArg State.run he :)
    unfold RunStands; rw [h1, h2]; exact hs

theorem runStands_self (s : State) : RunStands s.device s.run s := .inr ⟨rfl, rfl⟩

theorem RunStands.of_not_faulted {d : DeviceState} {b : Bool} (h : RunStands d b s) (hf : s.device ≠ .exchangeFault) :
    s.device = d ∧ s.run = b := h.resolve_left hf

theorem runLaw_fault (h : s.device = .exchangeFault) : RunLaw s := by simp [RunLaw, h]

theorem runLaw_running (h : s.device = .running) : RunLaw s ↔ s.run = true := by simp [RunLaw, h]

/-- A rule that keeps the device state and RUN, but for EXCHANGE_FAULT, keeps the law of RUN. -/
theorem RunStands.runLaw {t : State} (h : RunStands s.device s.run t) (hs : RunLaw s) : RunLaw t := by
  obtain h | ⟨hd, hr⟩ := h
  · exact runLaw_fault h
  · unfold RunLaw at *; rw [hd, hr]; exact hs

/-- A rule that keeps every property of the port's part keeps the law of RUN. -/
theorem runLaw_of_frame {f : State → State} (hf : ∀ P, PortFrame P → ∀ s, P s → P (f s)) (hs : RunLaw s) :
    RunLaw (f s) :=
  RunStands.runLaw (hf _ (runStands_frame s.device s.run) s (runStands_self s)) hs

theorem runLaw_brokenLink (h : s.run = true) : RunLaw (brokenLink s) := h

theorem walk_runLaw (n : Nat) (k : Kept) (hs : RunStands .running true s) : RunLaw (walk n k s) := by
  have hrun {s : State} (hs : RunStands .running true s) : RunLaw s := by
    obtain h | ⟨h1, h2⟩ := hs
    · exact runLaw_fault h
    · exact (runLaw_running h1).mpr h2
  induction n generalizing s with
  | zero => exact hrun hs
  | succ n ih =>
    unfold walk; split
    · exact hrun hs
    · rename_i c _
      have h1 := readCursor_port (runStands_frame .running true).toPort k c hs
      split
      · rename_i heq; rw [heq] at h1; exact hrun h1
      · rename_i heq; rw [heq] at h1; exact hrun h1
      · rename_i heq; rw [heq] at h1
        exact runLaw_brokenLink (h1.of_not_faulted (readCursor_device heq)).2
      · rename_i slot _ heq; rw [heq] at h1
        have h2 := takeSlot_frame (runStands_frame .running true) k slot h1
        dsimp only
        split <;> [exact hrun h2; exact ih h2]

theorem poll_runLaw (hd : s.device = .running) (hr : s.run = true) : RunLaw (poll s) := by
  have hq := runStands_frame .running true
  have h0 : RunStands .running true { s with pollCount := 0 } := .inr ⟨hd, hr⟩
  have h1 := readTakeIndex_port hq.toPort h0
  unfold poll; split
  · exact (runLaw_running hd).mpr hr
  · rw [if_pos hd]
    dsimp only
    generalize readTakeIndex { s with pollCount := 0 } = s1 at h1 ⊢
    have h2 : RunStands .running true (if faulted s1 = true then s1 else putGap s1) := by
      split <;> [exact h1; exact putGap_port hq.toPort h1]
    generalize (if faulted s1 = true then s1 else putGap s1) = s2 at h2 ⊢
    split
    · rename_i hf
      exact runLaw_fault (by simpa [faulted] using hf)
    · exact walk_runLaw _ _ h2

/-- A read that gives no bytes leaves the device in EXCHANGE_FAULT (R172). -/
theorem readExchange_none {a n : Nat} {s' : State} (hr : readExchange a n s = (none, s')) :
    s'.device = .exchangeFault := by
  unfold readExchange at hr
  split at hr
  · rename_i hf; cases hr; simpa [faulted] using hf
  · split at hr <;> cases hr; rfl

theorem startRuns_runLaw (h : Header) (hd : s.device = .idle) (hr : s.run = true) : RunLaw (startRuns h s) := by
  have hq := (runStands_frame .idle true).toPort
  have h1 : RunStands .idle true { s with
      kept := some h.kept, tickPeriod := tickPeriodOf h.tickRate, cursor := some (.before h.firstSlot)
      pollCount := 0, pollDue := false, gap := none } := .inr ⟨hd, hr⟩
  have h2 := writeExchange_port hq (s.exchangeBase.toNat + 28) (le16 h.takeIndex) h1
  have h3 := fun a bs => writeExchange_port hq a bs h2
  unfold startRuns; dsimp only
  split
  · rename_i hf; exact runLaw_fault (by simpa [faulted] using hf)
  · rename_i hf; exact poll_runLaw rfl ((h3 _ _).of_not_faulted (not_faulted hf)).2

theorem start_runLaw (hd : s.device = .idle) (hr : s.run = true) : RunLaw (start s) := by
  have hfails {s : State} (hd : s.device = .idle) : RunLaw (startFails s) := by
    simp [RunLaw, startFails, setEvent, hd]
  unfold start; split
  · exact hfails hd
  · split
    · rename_i heq; exact runLaw_fault (readExchange_none heq)
    · rename_i heq
      obtain ⟨-, rfl, -⟩ := readExchange_some heq
      split <;> [exact startRuns_runLaw _ hd hr; exact hfails hd]

theorem setRun_runLaw (hs : RunLaw s) : RunLaw (setRun s) := by
  unfold setRun; split
  · rename_i hd; exact start_runLaw hd rfl
  · exact poll_runLaw rfl rfl
  all_goals exact hs

theorem clearRun_runLaw (hs : RunLaw s) : RunLaw (clearRun s) := by
  unfold clearRun; split
  · rfl
  · rfl
  all_goals exact hs

theorem chainRestart_runLaw (i : Nat) (hs : RunLaw s) : RunLaw (chainRestart i s) := by
  unfold chainRestart; split <;> [exact poll_runLaw rfl rfl; exact hs]

theorem nudged_runLaw (hs : RunLaw s) : RunLaw (nudged s) := by
  unfold nudged; split
  · rename_i hd; exact poll_runLaw hd ((runLaw_running hd).mp hs)
  · exact hs

theorem duePoll_runLaw (hs : RunLaw s) : RunLaw (poll { s with pollDue := false }) := by
  by_cases hd : s.device = .running
  · exact poll_runLaw hd ((runLaw_running hd).mp hs)
  · unfold poll; split
    · exact hs
    · rw [if_neg hd]; exact hs

theorem runLaw_writeHold (hs : RunLaw s) : RunLaw (writeHold s) :=
  runLaw_of_frame (fun _ h _ hs => writeHold_frame h hs) hs

theorem runLaw_writeResume (hs : RunLaw s) : RunLaw (writeResume s) :=
  runLaw_of_frame (fun _ h _ hs => writeResume_frame h hs) hs

theorem writeControl_runLaw (v : BitVec 32) (hs : RunLaw s) : RunLaw (writeControl v s) := by
  unfold writeControl; split
  · rfl
  · have h1 : ∀ s, RunLaw s → RunLaw (if v.getLsbD 0 = s.run then s else if v.getLsbD 0 then setRun s else clearRun s) := by
      intro s hs
      split
      · exact hs
      · split <;> [exact setRun_runLaw hs; exact clearRun_runLaw hs]
    have h2 : ∀ s, RunLaw s → RunLaw (if v.getLsbD 2 then writeHold s else s) := by
      intro s hs; split <;> [exact runLaw_writeHold hs; exact hs]
    have h3 := h2 _ (h1 { s with clearMode := v.getLsbD 4 } hs)
    dsimp only
    split <;> [exact runLaw_writeResume h3; exact h3]

theorem writeRegister_runLaw (o : Nat) (v : BitVec 64) (hs : RunLaw s) : RunLaw (writeRegister o v s) := by
  unfold writeRegister
  split
  · exact writeControl_runLaw _ hs
  split
  · obtain h | h := writeEvents_cases (v.setWidth 32) s <;> rw [h] <;> exact hs
  split
  · exact hs
  split
  · exact nudged_runLaw hs
  split
  · exact chainRestart_runLaw _ hs
  split
  · obtain h | h := writeBase_cases v s <;> rw [h] <;> exact hs
  · exact hs

theorem runLaw_resets : Resets RunLaw := ⟨fun _ _ => rfl, fun _ _ => rfl⟩

/-- A command with a bus operand keeps the law of RUN when its rule does. -/
theorem withBus_runLaw {bus : Bus} {f : State → State} {t : State} (hf : ∀ s, RunLaw s → RunLaw (f s))
    (he : withBus bus f s = .next t) (hs : RunLaw s) : RunLaw t :=
  withBus_keeps (fun hs => hs) (fun _ => finishBus_keeps (fun _ hs => hs) fun _ => runLaw_resets) hf he hs

theorem runLaw_applyReset (k : ResetKind) (s : State) : RunLaw (applyReset k s) := by cases k <;> rfl

theorem not_plain_of_isHop {c : Instr} (hp : c.isHop = true) : isPlain c = false := by
  cases c <;> first | rfl | cases hp

theorem exec_hop_runLaw {c : Instr} (hp : c.isHop = true) {t : State} (he : exec c s = .next t) (hs : RunLaw s) :
    RunLaw t := by
  cases hb : c.bus.reset with
  | none =>
    have hq := runStands_frame s.device s.run
    have ht : RunStands s.device s.run t := exec_hop_keeps hq.hears c hp (fun hs => hs)
      (fun s hs => by rw [finishBus_of_no_reset _ hb]; exact hs) he (runStands_self s)
    exact ht.runLaw hs
  | some r =>
    obtain ⟨f, hf⟩ := exec_withBus (not_plain_of_isHop hp) he
    rw [withBus_of_reset _ hb] at hf
    cases hf
    exact runLaw_applyReset _ _

theorem exec_runLaw (c : Instr) {t : State} (he : exec c s = .next t) (hs : RunLaw s) : RunLaw t := by
  by_cases hp : c.isHop = true
  · exact exec_hop_runLaw hp he hs
  cases c with
  | powerOnReset => cases he; rfl
  | reset => cases he; rfl
  | runSet bus => exact withBus_runLaw (fun _ => setRun_runLaw) he hs
  | runClear => cases he; exact clearRun_runLaw hs
  | hold bus => exact withBus_runLaw (fun _ => runLaw_writeHold) he hs
  | resume bus => exact withBus_runLaw (fun _ => runLaw_writeResume) he hs
  | clearMode mode => cases he; exact hs
  | eventsRead => cases he; exact hs
  | eventsWrite value => cases he; obtain h | h := writeEvents_cases value s <;> rw [h] <;> exact hs
  | eventMaskWrite value => cases he; exact hs
  | nudge value bus => exact withBus_runLaw (fun _ => nudged_runLaw) he hs
  | chainStart value bus => exact withBus_runLaw (fun _ => chainRestart_runLaw _) he hs
  | exchangeBaseWrite value => cases he; obtain h | h := writeBase_cases value s <;> rw [h] <;> exact hs
  | registerWrite offset value bus => exact withBus_runLaw (fun _ => writeRegister_runLaw _ _) he hs
  | tick =>
    cases he
    split
    · exact hs
    · exact ((runStands_frame _ _).reads (runStands_self s) (portPart_advanceTick s)).runLaw hs
  | chainPoll bus =>
    simp only [exec, execChainPoll] at he
    refine withBus_runLaw (fun s hs => ?_) he hs
    split <;> [exact duePoll_runLaw hs; exact hs]
  | debounceExpiry line bus =>
    change execDebounceExpiry line bus s = .next t at he
    unfold execDebounceExpiry at he
    split at he
    · exact withBus_runLaw (fun _ hs => runLaw_of_frame (fun _ h _ hs =>
        actDeferred_keeps h.hears.toInner (debounceExpired_frame h _ hs)) hs) he hs
    · cases he
  | rawLineChange line level bus =>
    change execRawLineChange line level bus s = .next t at he
    unfold execRawLineChange at he
    split at he
    · exact withBus_runLaw (fun _ hs => runLaw_of_frame (fun _ h _ hs =>
        actDeferred_keeps h.hears.toInner (rawChanged_frame h _ _ hs)) hs) he hs
    · cases he
  | transmitStart =>
    cases he
    split
    · split <;> exact hs
    · exact hs
  | frameSent => cases he; split <;> exact hs
  | _ => exact absurd rfl hp

/-! ## The settings -/

/-- No update behind the fleet link and the clocks touches a setting. -/
theorem sameSettings_port (s : State) : Port (SameSettings s) := by constructor <;> (intros; assumption)

theorem sameSettings_hears (s : State) : Hears (SameSettings s) where
  stack _ _ _ _ h := h
  stackRecs _ _ _ h := h
  placeWait _ _ h := h
  standby _ _ _ h := h
  outq _ _ h := h
  robots _ _ _ h := h
  relays _ _ _ h := h
  deferred _ _ h := h
  decide _ _ _ _ _ _ h := h
  remove _ _ h := h
  toTail _ _ h := h
  notify _ _ h := notify_port (sameSettings_port s) _ h
  endSlot _ _ _ _ _ h := endRelaySlot_port (sameSettings_port s) _ _ _ _ h
  anyStack _ _ _ _ h := h
  anyRobot _ _ _ _ h := h
  linkState _ _ _ _ h := h
  rx _ _ h := h
  tx _ _ h := h
  event _ _ h := h

theorem sameSettings_refl (s : State) : SameSettings s s := by simp [SameSettings]

end Sys2Proof.Machine

namespace Sys2Proof

open Machine

/-- Settles O58: the unnamed places are a law of the port's part, and every command keeps the law of RUN. -/
theorem stepKeepsRegisterLaws : Obligations.StepKeepsRegisterLaws := by
  intro s t he
  refine ⟨step_keeps reservedLaw_portLaw.outer reservedLaw_resets (fun _ _ hs => hs) (fun _ hs => hs)
    (fun _ _ hs => hs) he, fun hs => ?_⟩
  unfold step at he
  split at he
  · exact exec_runLaw _ he hs
  · cases he; exact hs

/-- Settles O60: the settings stand through every update of `Hears`, and through a command's begin and end. -/
theorem reportsAndExpiriesKeepSettings : Obligations.ReportsAndExpiriesKeepSettings := fun c s _ hp hb he =>
  exec_hop_keeps (sameSettings_hears s) c hp (fun h => h) (fun s' h => by rw [finishBus_of_no_reset s' hb]; exact h) he
    (sameSettings_refl s)

end Sys2Proof

/-!
SUPPORT. The queue, the resets and the registers (R161, R170, R171, R173): what each register command leaves, the commands
that a device state ignores, and service hold by the host (R153).
-/

namespace Sys2Proof.Machine

variable {s : State} {bus : Bus}

/-! ## Commands with a bus operand -/

/-- A command whose rule has no effect leaves only what the host itself writes. -/
theorem withBus_of_ignored (hb : bus.reset = none) {f : State → State} (hf : f (beginBus bus s) = beginBus bus s) :
    withBus bus f s = .next (hostOnly bus s) := by
  rw [withBus_of_no_reset _ hb, hf]; rfl

/-- The rule of a command may be read at the state in which its bus operand stands. -/
theorem withBus_congr {f g : State → State} (h : f (beginBus (inForce bus) s) = g (beginBus (inForce bus) s)) :
    withBus bus f s = withBus bus g s := by
  unfold withBus; rw [h]

/-! ## Service hold -/

theorem writeHold_of_held (h : s.device = .idle ∨ s.hold = true) : writeHold s = s := by
  unfold writeHold; rw [if_pos (by simpa using h)]

theorem writeHold_of_not_held (hd : s.device ≠ .idle) (hh : s.hold = false) : writeHold s = holdOn .host s := by
  unfold writeHold; rw [if_neg (by simp [hd, hh])]

theorem any_gateLines_level : (gateLines s).any Line.level = true ↔ ∃ l ∈ s.lines, l.fn = .gate ∧ l.level = true := by
  simp only [gateLines, List.any_filter, List.any_eq_true, Bool.and_eq_true, beq_iff_eq]

theorem writeResume_of_refused (h : s.device = .idle ∨ s.hold = false ∨ ∃ l ∈ s.lines, l.fn = .gate ∧ l.level = true) :
    writeResume s = s := by
  unfold writeResume
  rw [if_pos]
  rw [← any_gateLines_level] at h
  simpa only [Bool.or_eq_true, decide_eq_true_eq, Bool.not_eq_true', or_assoc] using h

theorem writeResume_of_clear (hd : s.device ≠ .idle) (hh : s.hold = true)
    (hg : ∀ l ∈ s.lines, l.fn = .gate → l.level = false) : writeResume s = holdOff s := by
  unfold writeResume
  rw [if_neg]
  have : ¬∃ l ∈ s.lines, l.fn = .gate ∧ l.level = true := by
    rintro ⟨l, hl, hf, ht⟩
    simp [hg l hl hf] at ht
  rw [← any_gateLines_level] at this
  simp [hd, hh, this]

/-! ## RUN and the chain -/

theorem setRun_of_ignored (h : s.device = .running ∨ s.device = .broken ∨ s.device = .exchangeFault) :
    setRun s = s := by
  obtain h | h | h := h <;> simp [setRun, h]

theorem setRun_idle (h : s.device = .idle) : setRun s = start { s with run := true } := by simp [setRun, h]

theorem setRun_stopped (h : s.device = .stopped) : setRun s = poll { s with run := true, device := .running } := by
  simp [setRun, h]

theorem clearRun_of_active (h : s.device = .running ∨ s.device = .broken) :
    clearRun s = { s with run := false, device := .stopped, pollDue := false } := by
  obtain h | h := h <;> simp [clearRun, h]

theorem clearRun_of_ignored (h : s.device = .idle ∨ s.device = .stopped ∨ s.device = .exchangeFault) :
    clearRun s = s := by
  obtain h | h | h := h <;> simp [clearRun, h]

theorem nudged_of_running (h : s.device = .running) : nudged s = poll s := if_pos h

theorem nudged_of_not_running (h : s.device ≠ .running) : nudged s = s := if_neg h

theorem chainRestart_of_state (i : Nat) (h : s.device = .idle ∨ s.device = .running ∨ s.device = .exchangeFault) :
    chainRestart i s = s := by
  unfold chainRestart
  rw [if_neg]
  rintro ⟨hd | hd, -⟩ <;> simp [hd] at h

theorem chainRestart_of_index {i : Nat} {k : Kept} (hk : s.kept = some k) (hi : k.slotCount ≤ i) :
    chainRestart i s = s := by
  unfold chainRestart
  rw [if_neg]
  rintro ⟨-, h⟩
  simp [hk] at h
  omega

theorem chainRestart_of_kept {i : Nat} {k : Kept} (hk : s.kept = some k) (hd : s.device = .stopped ∨ s.device = .broken)
    (hi : i < k.slotCount) :
    chainRestart i s = poll { s with cursor := some (.before i), run := true, device := .running } :=
  if_pos ⟨hd, by simpa [hk] using hi⟩

/-! ## CONTROL -/

theorem writeControl_reset {v : BitVec 32} (h : v.getLsbD 1 = true) : writeControl v s = softReset s := if_pos h

/-- The RUN field of a CONTROL write acts only when its value differs from the present one (R170, log 11). -/
def writeRunField (v : BitVec 32) (s : State) : State :=
  if v.getLsbD 0 = s.run then s else if v.getLsbD 0 then setRun s else clearRun s

/-- CONTROL without RESET: CLEAR_MODE, RUN, HOLD and RESUME in this order (R170). -/
theorem writeControl_fields {v : BitVec 32} (h : v.getLsbD 1 = false) :
    writeControl v s =
      (if v.getLsbD 3 then writeResume else id) ((if v.getLsbD 2 then writeHold else id)
        (writeRunField v { s with clearMode := v.getLsbD 4 })) := by
  unfold writeControl
  rw [if_neg (by rw [h]; decide)]
  dsimp only
  unfold writeRunField
  cases v.getLsbD 3 <;> cases v.getLsbD 2 <;> rfl

theorem getLsbD_setWidth_32 (v : BitVec 64) {i : Nat} (h : i < 32) : (v.setWidth 32).getLsbD i = v.getLsbD i := by
  rw [BitVec.getLsbD_setWidth, decide_eq_true h, Bool.true_and]

/-! ## REGISTER_WRITE -/

theorem exec_registerWrite (hb : bus.reset = none) {o : Nat} {v : BitVec 64} :
    exec (.registerWrite o v bus) s = .next (endBus (writeRegister o v (beginBus bus s))) :=
  withBus_of_no_reset s hb _

theorem writeRegister_control (v : BitVec 64) (s : State) :
    writeRegister 0x04 v s = writeControl (v.setWidth 32) s := rfl

theorem writeRunField_setWidth (v : BitVec 64) (s : State) :
    writeRunField (v.setWidth 32) s = if v.getLsbD 0 = s.run then s else if v.getLsbD 0 then setRun s else clearRun s := by
  rw [writeRunField, getLsbD_setWidth_32 v (by decide)]

theorem writeRegister_control_fields {v : BitVec 64} (h : v.getLsbD 1 = false) :
    writeRegister 0x04 v s = (if v.getLsbD 3 then writeResume else id) ((if v.getLsbD 2 then writeHold else id)
      (if v.getLsbD 0 = s.run then { s with clearMode := v.getLsbD 4 }
        else if v.getLsbD 0 then setRun { s with clearMode := v.getLsbD 4 }
        else clearRun { s with clearMode := v.getLsbD 4 })) := by
  rw [writeRegister_control, writeControl_fields (by rwa [getLsbD_setWidth_32 v (by decide)]), writeRunField_setWidth]
  simp only [getLsbD_setWidth_32 v (show 2 < 32 by decide), getLsbD_setWidth_32 v (show 3 < 32 by decide),
    getLsbD_setWidth_32 v (show 4 < 32 by decide)]

theorem writeRegister_other {o : Nat} {v : BitVec 64} (ho : o ∉ [0x04, 0x0C, 0x10, 0x14, 0x18, 0x20]) :
    writeRegister o v s = s := by
  simp only [List.mem_cons, List.not_mem_nil, or_false, not_or] at ho
  obtain ⟨h1, h2, h3, h4, h5, h6⟩ := ho
  simp [writeRegister, h1, h2, h3, h4, h5, h6]

theorem clearRun_beginBus (b : Bus) (s : State) : clearRun (beginBus b s) = beginBus b (clearRun s) := by
  unfold clearRun
  rw [beginBus_device]
  cases s.device <;> rfl

theorem writeEvents_beginBus (b : Bus) (v : BitVec 32) (s : State) :
    writeEvents v (beginBus b s) = beginBus b (writeEvents v s) := by
  cases h : s.clearMode
  · rw [writeEvents_clearMode_off h, writeEvents_clearMode_off (s := beginBus b s) h]
  · rw [writeEvents_clearMode_on h, writeEvents_clearMode_on (s := beginBus b s) h]; rfl

theorem writeBase_beginBus (b : Bus) (v : BitVec 64) (s : State) :
    writeBase v (beginBus b s) = beginBus b (writeBase v s) := by
  by_cases h : s.device = .idle
  · rw [writeBase_idle h, writeBase_idle (s := beginBus b s) h]; rfl
  · rw [writeBase_not_idle h, writeBase_not_idle (s := beginBus b s) h]

/-! ## The resets -/

theorem afterReset_afterReset (l : Line) : l.afterReset.afterReset = l.afterReset := rfl

theorem powerOn_powerOn (s : State) : powerOn (powerOn s) = powerOn s := by
  simp [powerOn, afterReset_afterReset]

theorem softReset_softReset (s : State) : softReset (softReset s) = softReset s := by
  simp [softReset, powerOn, afterReset_afterReset]

/-! ## Reservations -/

theorem hasRoom_iff {k : StackRec} : k.hasRoom = true ↔ k.resting.length + k.pend.length < k.capacity :=
  decide_eq_true_iff

theorem open_iff {k : StackRec} : k.open = true ↔ k.state = .active ∧ k.blocked = false ∧ k.hasRoom = true := by
  simp [StackRec.open, and_assoc]

end Sys2Proof.Machine

namespace Sys2Proof

open Machine

/-- Settles O1. -/
theorem stepRunsFrontCommand : Obligations.StepRunsFrontCommand :=
  ⟨fun _ _ => rfl, fun s h => by unfold step; rw [h]⟩

/-- Settles O2: `powerOn` names the reset value of every field but those outside the part. -/
theorem powerOnResetLeaves : Obligations.PowerOnResetLeaves := fun s =>
  ⟨powerOn s, rfl, by simp [powerOn, State.reset, Config.stackCount, Config.districtCount, resetTuning, resetTimingSet,
    Line.afterReset, interruptLine]⟩

/-- Settles O5: each command is its register's equation. -/
theorem registerCommandsAct : Obligations.RegisterCommandsAct := by
  refine ⟨fun _ => rfl, fun v s h => ?_, fun v s h => ?_, fun _ _ => rfl, fun v s => ⟨_, rfl, rfl, ?_⟩, fun v s h => ?_,
    fun v s h => ?_, fun s h => ?_, fun s h => ?_⟩
  · exact congrArg _ (writeEvents_clearMode_on h)
  · exact congrArg _ (writeEvents_clearMode_off h)
  · simp [interruptLine, writeMask, eventPlaces]
  · exact congrArg _ (writeBase_idle h)
  · exact congrArg _ (writeBase_not_idle h)
  · exact congrArg _ (clearRun_of_active h)
  · exact congrArg _ (clearRun_of_ignored h)

/-- Settles O11: in each case the rule leaves the state in which it begins. -/
theorem ignoredCommandsChangeNothing : Obligations.IgnoredCommandsChangeNothing := by
  refine ⟨fun v bus s hb hd => ?_, fun v bus s hb hd => ?_, fun v bus s k hb hk hi => ?_, fun bus s hb hd => ?_,
    fun bus s hb hd => ⟨?_, ?_⟩, fun bus s hb hp => ?_⟩
  · exact withBus_of_ignored hb (nudged_of_not_running hd)
  · exact withBus_of_ignored hb (chainRestart_of_state _ hd)
  · exact withBus_of_ignored hb (chainRestart_of_index hk hi)
  · exact withBus_of_ignored hb (setRun_of_ignored hd)
  · exact withBus_of_ignored hb (writeHold_of_held (.inl hd))
  · exact withBus_of_ignored hb (writeResume_of_refused (.inl hd))
  · exact withBus_of_ignored (f := fun s => if s.pollDue then poll { s with pollDue := false } else s) hb
      (if_neg (by simp [hp]))

/-- Settles O19: the store's own tests, spelled out. -/
theorem reservationMadeOrDeclined : Obligations.ReservationMadeOrDeclined := by
  constructor
  · intro s i bin tag district
    unfold reserve
    simp only [open_iff, hasRoom_iff]
    rfl
  · intro s i robot tag
    unfold blankHold
    simp only [hasRoom_iff]
    rfl

/-- Settles O41: HOLD and RESUME act by `writeHold` and `writeResume`. -/
theorem holdAndResume : Obligations.HoldAndResume := by
  refine ⟨fun s bus hb hd hh => ?_, fun s bus hb hh => ?_, fun s bus hb hd hh hg => ?_, fun s bus hb h => ?_⟩
  · refine (withBus_of_no_reset s hb writeHold).trans ?_
    rw [writeHold_of_not_held (s := beginBus bus s) hd hh]; rfl
  · exact withBus_of_ignored hb (writeHold_of_held (.inr hh))
  · refine (withBus_of_no_reset s hb writeResume).trans ?_
    rw [writeResume_of_clear (s := beginBus bus s) hd hh hg]; rfl
  · exact withBus_of_ignored hb (writeResume_of_refused (.inr h))

/-- Settles O42. -/
theorem transmitterSendsHeadFrame : Obligations.TransmitterSendsHeadFrame := by
  refine ⟨fun s f rest hq hl hh ht => ?_, fun s h => ?_, fun s bs ht => ?_, fun s ht => ?_⟩
  · simp [exec, execTransmitStart, mayStart, hq, hl, hh, ht]
  · cases hq : s.outq with
    | nil => simp [exec, execTransmitStart, hq]
    | cons f rest =>
      have hm : mayStart s = false := by
        obtain h | h | h | h := h
        · simp [hq] at h
        · simp [mayStart, h]
        · simp [mayStart, h]
        · simp [mayStart, Option.isSome_iff_ne_none.mpr h]
      simp [exec, execTransmitStart, hq, hm]
  · simp [exec, execFrameSent, ht]
  · simp [exec, execFrameSent, ht]

/-- Settles O6: REGISTER_WRITE runs `writeRegister`, and a CONTROL write its fields in the order of R170. -/
theorem registerWriteActsByOffset : Obligations.RegisterWriteActsByOffset := by
  refine ⟨fun v bus s hb hv => ?reset, fun v bus s hb h1 h0 h2 h3 => ?clearMode,
    fun v bus s s0 s1 s2 s3 hb h1 e0 e1 e2 e3 => ?order, fun v bus s u hb h1 hu => ⟨fun h0 hr h2 h3 => ?set,
      fun h0 hr h2 h3 => ⟨_, rfl, ?clear⟩, fun h0 h2 h3 => ?hold, fun h0 h2 h3 => ?resume⟩,
    fun v bus s hb => ⟨?nudge, ?chain⟩, fun v bus s hb => ⟨_, rfl, ?events⟩, fun v bus s hb => ⟨_, rfl, ?mask⟩,
    fun v bus s hb => ⟨_, rfl, ?base⟩, fun o v bus s hb ho => ?other⟩
  case reset =>
    rw [exec_registerWrite hb, writeRegister_control, writeControl_reset (by rwa [getLsbD_setWidth_32 v (by decide)])]
  case clearMode =>
    rw [exec_registerWrite hb, writeRegister_control_fields h1, h2, h3, beginBus_run, if_pos h0]; rfl
  case order =>
    subst e0
    rw [exec_registerWrite hb, writeRegister_control_fields h1, e3, e2, e1]
    cases v.getLsbD 3 <;> cases v.getLsbD 2 <;> rfl
  case set =>
    subst hu
    have hne : v.getLsbD 0 ≠ s.run := by simp only [h0, hr, ne_eq, Bool.true_eq_false, not_false_eq_true]
    rw [exec_registerWrite hb, writeRegister_control_fields h1, h2, h3, beginBus_run, if_neg hne, if_pos h0]
    simp only [Bool.false_eq_true, ↓reduceIte, id_eq]
    exact (withBus_of_no_reset { s with clearMode := v.getLsbD 4 } hb setRun).symm
  case clear =>
    subst hu
    have hne : v.getLsbD 0 ≠ s.run := by simp only [h0, hr, ne_eq, Bool.false_eq_true, not_false_eq_true]
    rw [exec_registerWrite hb, writeRegister_control_fields h1, h2, h3, beginBus_run, if_neg hne, h0]
    simp only [Bool.false_eq_true, ↓reduceIte, id_eq]
    exact congrArg (fun s => Host.Outcome.next (endBus s)) (clearRun_beginBus bus { s with clearMode := v.getLsbD 4 })
  case hold =>
    subst hu
    rw [exec_registerWrite hb, writeRegister_control_fields h1, h2, h3, beginBus_run, if_pos h0]
    simp only [Bool.false_eq_true, ↓reduceIte, id_eq]
    exact (withBus_of_no_reset { s with clearMode := v.getLsbD 4 } hb writeHold).symm
  case resume =>
    subst hu
    rw [exec_registerWrite hb, writeRegister_control_fields h1, h2, h3, beginBus_run, if_pos h0]
    simp only [Bool.false_eq_true, ↓reduceIte, id_eq]
    exact (withBus_of_no_reset { s with clearMode := v.getLsbD 4 } hb writeResume).symm
  case nudge => rfl
  case chain => rfl
  case events =>
    rw [exec_registerWrite hb]
    exact congrArg (fun s => Host.Outcome.next (endBus s)) (writeEvents_beginBus bus (v.setWidth 32) s)
  case mask => rw [exec_registerWrite hb]; rfl
  case base =>
    rw [exec_registerWrite hb]
    exact congrArg (fun s => Host.Outcome.next (endBus s)) (writeBase_beginBus bus v s)
  case other => rw [exec_registerWrite hb, writeRegister_other ho]; rfl

end Sys2Proof

/-!
SUPPORT. The Exchange Port's accesses in a command in which the host writes nothing and no bus error occurs (`Calm`): what
a read, a write and a take of a notice leave (R162, R167, R168, R169), and the accesses that meet a bus error (R172).
-/

namespace Sys2Proof.Machine

/-! ## Bytes of host memory -/

section Bytes

variable {m : List Host.Cell}

theorem Memory.getD_bytes {a n i : Nat} (hi : i < n) : (Memory.bytes m a n).getD i 0#8 = Memory.get m (a + i) := by
  simp [Memory.bytes, hi]

theorem byteAt_bytes {a n i : Nat} (hi : i < n) : byteAt (Memory.bytes m a n) i = (Memory.get m (a + i)).toNat := by
  rw [byteAt, Memory.getD_bytes hi]

theorem word16At_bytes {a n i : Nat} (hi : i + 1 < n) :
    word16At (Memory.bytes m a n) i = word16At (Memory.bytes m (a + i) 2) 0 := by
  simp only [word16At, byteAt_bytes hi, byteAt_bytes (show i < n by omega), byteAt_bytes (show 0 < 2 by decide),
    byteAt_bytes (show 0 + 1 < 2 by decide), Nat.add_assoc]
  rfl

theorem word32At_bytes {a n i : Nat} (hi : i + 3 < n) :
    word32At (Memory.bytes m a n) i = word32At (Memory.bytes m (a + i) 4) 0 := by
  simp only [word32At, word16At_bytes (show i + 1 < n by omega), word16At_bytes (show i + 2 + 1 < n by omega),
    word16At_bytes (show 0 + 1 < 4 by decide), word16At_bytes (show 0 + 2 + 1 < 4 by decide), Nat.add_assoc]
  rfl

theorem Memory.drop_bytes (a n i : Nat) : (Memory.bytes m a n).drop i = Memory.bytes m (a + i) (n - i) := by
  apply List.ext_getElem
  · simp [Memory.bytes]
  · intro j h1 h2
    simp [Memory.bytes, Nat.add_assoc]

/-- Bytes that a write leaves out read the same after it. -/
theorem Memory.bytes_put_outside {a n b : Nat} {bs : List Byte} (h : a + n ≤ b ∨ b + bs.length ≤ a) :
    Memory.bytes (Memory.put m b bs) a n = Memory.bytes m a n := by
  unfold Memory.bytes
  refine List.map_congr_left fun i hi => Memory.get_put_outside _ _ _ _ ?_
  have := List.mem_range.mp hi
  omega

/-- A write that a bus error cuts changes no byte outside its field (R185). -/
theorem Memory.get_putLanded_outside {a x : Nat} {bs : List Byte} {ls : List Bool} (h : x < a ∨ a + bs.length ≤ x) :
    Memory.get (Memory.putLanded m a bs ls) x = Memory.get m x := by
  induction bs generalizing m a ls with
  | nil => rw [Memory.putLanded]
  | cons b rest ih =>
    cases ls with
    | nil => rfl
    | cons l ls =>
      rw [List.length_cons] at h
      rw [Memory.putLanded, ih (by omega)]
      cases l
      · rfl
      · exact Memory.get_set_other _ _ (by omega)

end Bytes

@[simp] theorem length_le16 (n : Nat) : (le16 n).length = 2 := rfl

@[simp] theorem length_le32 (w : BitVec 32) : (le32 w).length = 4 := rfl

/-! ## Accesses without host writes and bus errors -/

/-- In the running command the host writes nothing and no bus error occurs. -/
def Calm (s : State) : Prop := s.bus.errorAt = none ∧ s.bus.writes = []

variable {s : State} {k : Kept}

theorem calm_of_bus (h : s.bus = {}) : Calm s := by rw [Calm, h]; exact ⟨rfl, rfl⟩

/-- The host lets nothing land before the next access. -/
theorem countAccess_of_no_writes (hw : s.bus.writes = []) : countAccess s = { s with busCount := s.busCount + 1 } := by
  have hb : { s.bus with writes := [] } = s.bus := by rw [← hw]
  simp only [countAccess, hw, List.filter_nil, hb]
  rfl

theorem busError_iff : busError s = true ↔ s.bus.errorAt = some s.busCount := beq_iff_eq

theorem busError_eq_false : busError s = false ↔ s.bus.errorAt ≠ some s.busCount := by
  rw [← Bool.not_eq_true, busError_iff]

theorem faulted_eq_false : faulted s = false ↔ s.device ≠ .exchangeFault := by simp [faulted]

theorem faulted_ne_true (hd : s.device ≠ .exchangeFault) : ¬faulted s = true := by simpa [faulted] using hd

theorem readExchange_of_ok (hw : s.bus.writes = []) (he : s.bus.errorAt ≠ some s.busCount)
    (hd : s.device ≠ .exchangeFault) (a n : Nat) :
    readExchange a n s = (some (Memory.bytes s.mem a n), { s with busCount := s.busCount + 1 }) := by
  simp [readExchange, faulted_eq_false.mpr hd, busError_eq_false.mpr he, countAccess_of_no_writes hw]

theorem writeExchange_of_ok (hw : s.bus.writes = []) (he : s.bus.errorAt ≠ some s.busCount)
    (hd : s.device ≠ .exchangeFault) (a : Nat) (bs : List Byte) :
    writeExchange a bs s = { s with mem := Memory.put s.mem a bs, busCount := s.busCount + 1 } := by
  simp [writeExchange, faulted_eq_false.mpr hd, busError_eq_false.mpr he, countAccess_of_no_writes hw]

theorem Calm.not_busError (hc : Calm s) : s.bus.errorAt ≠ some s.busCount := by simp [hc.1]

theorem readExchange_of_calm (hc : Calm s) (hd : s.device ≠ .exchangeFault) (a n : Nat) :
    readExchange a n s = (some (Memory.bytes s.mem a n), { s with busCount := s.busCount + 1 }) :=
  readExchange_of_ok hc.2 hc.not_busError hd a n

theorem writeExchange_of_calm (hc : Calm s) (hd : s.device ≠ .exchangeFault) (a : Nat) (bs : List Byte) :
    writeExchange a bs s = { s with mem := Memory.put s.mem a bs, busCount := s.busCount + 1 } :=
  writeExchange_of_ok hc.2 hc.not_busError hd a bs

/-- Two writes in a row. -/
theorem writeExchange_writeExchange_of_calm (hc : Calm s) (hd : s.device ≠ .exchangeFault) (a b : Nat)
    (bs cs : List Byte) : writeExchange b cs (writeExchange a bs s) =
      { s with mem := Memory.put (Memory.put s.mem a bs) b cs, busCount := s.busCount + 2 } := by
  rw [writeExchange_of_calm hc hd]
  exact writeExchange_of_calm (s := { s with mem := Memory.put s.mem a bs, busCount := s.busCount + 1 }) hc hd b cs

/-! ## The notice ring -/

theorem exchangeOpen_iff : exchangeOpen s = true ↔ s.device = .running ∨ s.device = .stopped ∨ s.device = .broken := by
  simp [exchangeOpen, or_assoc]

theorem not_fault_of_open (h : exchangeOpen s = true) : s.device ≠ .exchangeFault := by
  obtain h | h | h := exchangeOpen_iff.mp h <;> simp [h]

theorem not_open (h : s.device = .idle ∨ s.device = .exchangeFault) : exchangeOpen s = false := by
  obtain h | h := h <;> simp [exchangeOpen, h]

theorem notify_not_open (n : Notice) (h : exchangeOpen s = false) : notify n s = s := by
  unfold notify; rw [h]; rfl

theorem ringFull_kept (hk : s.kept = some k) : ringFull s = k.full := by simp [ringFull, hk]

theorem Kept.full_eq_true : k.full = true ↔ (k.writeIndex + 1) % k.noticeCount = k.takeIndex := beq_iff_eq

theorem Kept.full_eq_false : k.full = false ↔ (k.writeIndex + 1) % k.noticeCount ≠ k.takeIndex := by
  rw [← Bool.not_eq_true, Kept.full_eq_true]

theorem readTakeIndex_of_ok (hw : s.bus.writes = []) (he : s.bus.errorAt ≠ some s.busCount)
    (hd : s.device ≠ .exchangeFault) :
    readTakeIndex s = { s with kept := s.kept.map (Kept.reread s), busCount := s.busCount + 1 } := by
  unfold readTakeIndex
  rw [readExchange_of_ok hw he hd]
  rfl

theorem readTakeIndex_of_calm (hc : Calm s) (hd : s.device ≠ .exchangeFault) :
    readTakeIndex s = { s with kept := s.kept.map (Kept.reread s), busCount := s.busCount + 1 } :=
  readTakeIndex_of_ok hc.2 hc.not_busError hd

/-- What an appended notice leaves (R168 steps 4 and 5). -/
def appended (n : Notice) (k : Kept) (s : State) : State :=
  { s with
    mem := Memory.put (Memory.put s.mem (k.ringBase + 32 * k.writeIndex) n.bytes) (s.exchangeBase.toNat + 28)
      (le16 ((k.writeIndex + 1) % k.noticeCount))
    kept := some { k with writeIndex := (k.writeIndex + 1) % k.noticeCount }
    events := s.events ||| 0x01#32, busCount := s.busCount + 2 }

theorem putNotice_of_calm (hc : Calm s) (hd : s.device ≠ .exchangeFault) (hk : s.kept = some k) (n : Notice) :
    putNotice n s = appended n k s := by
  unfold putNotice
  split
  case h_1 hk' => rw [hk] at hk'; cases hk'
  case h_2 k' hk' =>
    rw [hk] at hk'
    cases hk'
    rw [writeExchange_of_calm hc hd]
    refine (if_neg (c := faulted _ = true) (faulted_ne_true hd)).trans ?_
    dsimp only
    rw [writeExchange_of_calm]
    · refine (if_neg (faulted_ne_true hd)).trans ?_
      simp only [setEvent, appended, Config.noticeBytes]
      rfl
    · exact hc
    · exact hd

theorem putGap_none (h : s.gap = none) : putGap s = s := by unfold putGap; rw [h]

theorem putGap_full (h : ringFull s = true) : putGap s = s := by
  unfold putGap
  cases s.gap
  · rfl
  · exact if_pos h

theorem putGap_room {start : Tick} (hg : s.gap = some start) (h : ringFull s = false) :
    putGap s = putNotice (gapNotice s.tick start) { s with gap := none } := by
  unfold putGap; rw [hg]; exact if_neg (by simp [h])

/-- A notice that the kept take index leaves room for, with no gap open, goes straight into the ring. -/
theorem notify_of_room (n : Notice) (ho : exchangeOpen s = true) (hr : ringFull s = false) :
    notify n s =
      if faulted (putGap s) then putGap s
      else if ringFull (putGap s) then discardNotice (putGap s) else putNotice n (putGap s) := by
  unfold notify
  rw [ho, hr]
  simp [faulted_eq_false.mpr (not_fault_of_open ho)]

theorem notify_of_calm_room (hc : Calm s) (ho : exchangeOpen s = true) (hk : s.kept = some k)
    (hr : (k.writeIndex + 1) % k.noticeCount ≠ k.takeIndex) (hg : s.gap = none) (n : Notice) :
    notify n s = appended n k s := by
  have hfull : ringFull s = false := (ringFull_kept hk).trans (Kept.full_eq_false.mpr hr)
  have hd := not_fault_of_open ho
  rw [notify_of_room n ho hfull, putGap_none hg, faulted_eq_false.mpr hd, hfull, putNotice_of_calm hc hd hk]
  rfl

/-- A notice that meets a full ring, by the take index read again as well, is discarded (R168 step 3). -/
theorem notify_of_calm_full (hc : Calm s) (ho : exchangeOpen s = true) (hk : s.kept = some k)
    (hr : (k.writeIndex + 1) % k.noticeCount = k.takeIndex)
    (hr' : (k.writeIndex + 1) % k.noticeCount = (Kept.reread s k).takeIndex) (n : Notice) :
    notify n s = discardNotice { s with kept := some (Kept.reread s k), busCount := s.busCount + 1 } := by
  have hfull : ringFull s = true := (ringFull_kept hk).trans (Kept.full_eq_true.mpr hr)
  have hd := not_fault_of_open ho
  have hfull' : ringFull { s with kept := some (Kept.reread s k), busCount := s.busCount + 1 } = true := by
    refine (ringFull_kept rfl).trans (Kept.full_eq_true.mpr ?_)
    rw [← hr']
    unfold Kept.reread; split <;> rfl
  unfold notify
  rw [ho, hfull, readTakeIndex_of_calm hc hd, hk]
  simp only [Bool.not_true, Bool.false_eq_true, ↓reduceIte, Option.map_some, putGap_full hfull', hfull']
  exact (if_neg (faulted_ne_true hd)).trans (if_neg (faulted_ne_true hd))

/-- With a gap open and room, the GAP notice goes first (R169). -/
theorem notify_of_calm_gap (hc : Calm s) (ho : exchangeOpen s = true) (hk : s.kept = some k) {start : Tick}
    (hr : (k.writeIndex + 1) % k.noticeCount ≠ k.takeIndex) (hg : s.gap = some start) (n : Notice) :
    notify n s =
      (if ringFull (appended (gapNotice s.tick start) k { s with gap := none }) then discardNotice else putNotice n)
        (appended (gapNotice s.tick start) k { s with gap := none }) := by
  have hfull : ringFull s = false := (ringFull_kept hk).trans (Kept.full_eq_false.mpr hr)
  have hd := not_fault_of_open ho
  have hp : putGap s = appended (gapNotice s.tick start) k { s with gap := none } := by
    rw [putGap_room hg hfull]
    exact putNotice_of_calm (s := { s with gap := none }) hc hd hk _
  rw [notify_of_room n ho hfull, hp]
  refine (if_neg (faulted_ne_true hd)).trans ?_
  split <;> rfl

/-! ## The ends of slots -/

theorem writeOutcome_of_calm (hc : Calm s) (hd : s.device ≠ .exchangeFault) (hk : s.kept = some k) (slot : Nat)
    (o : Outcome) : writeOutcome slot o s = { s with
      mem := Memory.put (Memory.put s.mem (k.slotAddr slot + 144) o.bytes) (k.slotAddr slot) [3#8]
      busCount := s.busCount + 2 } := by
  unfold writeOutcome
  conv_lhs => rw [hk]
  exact writeExchange_writeExchange_of_calm hc hd _ _ _ _

theorem endRequest_of_calm (hc : Calm s) (ho : exchangeOpen s = true) (hk : s.kept = some k) (slot : Nat) (tag : Tag)
    (code : Code) {o : Outcome} (h : o = { code := code, endTick := s.tick, hop := 0, place := .none, flags := {} }) :
    endRequest slot tag code s = notify (outcomeNotice tag slot 0#32 o) { s with
      mem := Memory.put (Memory.put s.mem (k.slotAddr slot + 144) o.bytes) (k.slotAddr slot) [3#8]
      busCount := s.busCount + 2 } := by
  subst h
  have hd := not_fault_of_open ho
  unfold endRequest
  rw [ho]
  dsimp only
  rw [writeOutcome_of_calm hc hd hk]
  exact if_neg (faulted_ne_true hd)

theorem byteAt_owner (m : List Host.Cell) (a : Nat) (b : Byte) :
    byteAt (Memory.bytes m a 1) 0 = b.toNat ↔ Memory.get m a = b := by
  rw [byteAt_bytes (by decide), Nat.add_zero, BitVec.toNat_inj]

/-- The slot of a relay is ended by what its ownership byte says (R167). -/
theorem endRelaySlot_of_calm (hc : Calm s) (ho : exchangeOpen s = true) (hk : s.kept = some k) (slot : Nat) (tag : Tag)
    (bin : BinId) (o : Outcome) :
    endRelaySlot slot tag bin o s = notify (outcomeNotice tag slot bin o)
      (if Memory.get s.mem (k.slotAddr slot) = 2#8
        then writeOutcome slot o { s with busCount := s.busCount + 1 } else { s with busCount := s.busCount + 1 }) := by
  have hd := not_fault_of_open ho
  unfold endRelaySlot
  conv_lhs => rw [ho, hk]
  dsimp only
  rw [readExchange_of_calm hc hd]
  simp only [Bool.not_true, Bool.false_eq_true, ↓reduceIte,
    show (byteAt (Memory.bytes s.mem (k.slotAddr slot) 1) 0 = 2 ↔ _) from byteAt_owner s.mem _ 2#8]
  refine if_neg ?_
  split
  · rw [writeOutcome_of_calm (s := { s with busCount := s.busCount + 1 }) hc hd hk]
    exact faulted_ne_true hd
  · exact faulted_ne_true hd

/-! ## Accesses that meet a bus error -/

theorem readExchange_busError (hd : s.device ≠ .exchangeFault) (he : s.bus.errorAt = some s.busCount) (a n : Nat) :
    readExchange a n s = (none, enterExchangeFault (countAccess s)) := by
  simp [readExchange, faulted_eq_false.mpr hd, busError_iff.mpr he]

theorem writeExchange_busError (hd : s.device ≠ .exchangeFault) (he : s.bus.errorAt = some s.busCount) (a : Nat)
    (bs : List Byte) : writeExchange a bs s =
      enterExchangeFault { countAccess s with mem := Memory.putLanded (countAccess s).mem a bs s.bus.landed } := by
  simp [writeExchange, faulted_eq_false.mpr hd, busError_iff.mpr he]

theorem readExchange_faulted (h : s.device = .exchangeFault) (a n : Nat) : readExchange a n s = (none, s) := by
  simp [readExchange, faulted, h]

theorem writeExchange_faulted (h : s.device = .exchangeFault) (a : Nat) (bs : List Byte) : writeExchange a bs s = s := by
  simp [writeExchange, faulted, h]

end Sys2Proof.Machine

namespace Sys2Proof

open Machine

/-- Settles O14. -/
theorem noticeAppendedOrDiscarded : Obligations.NoticeAppendedOrDiscarded :=
  ⟨fun _ _ n ho hk hr hg he hw => notify_of_calm_room ⟨he, hw⟩ ho hk hr hg n,
    fun _ _ n ho hk hr hr' he hw => notify_of_calm_full ⟨he, hw⟩ ho hk hr hr' n,
    fun _ n hd => notify_not_open n (not_open hd)⟩

/-- Settles O15: the ring as the GAP notice leaves it decides what becomes of the notice. -/
theorem gapGoesFirst : Obligations.GapGoesFirst := by
  intro s k n start ho hk hr hg he hw w1 w2 m1
  have hc : Calm s := ⟨he, hw⟩
  have hd := not_fault_of_open ho
  have hfull : ringFull (appended (gapNotice s.tick start) k { s with gap := none }) =
      ({ k with writeIndex := w1 } : Kept).full := ringFull_kept rfl
  rw [notify_of_calm_gap hc ho hk hr hg, hfull]
  refine ⟨fun hw2 => ?room, fun hw2 => ?full⟩
  case room =>
    rw [Kept.full_eq_false.mpr hw2]
    refine (putNotice_of_calm (k := { k with writeIndex := w1 }) (s := appended (gapNotice s.tick start) k
      { s with gap := none }) hc hd rfl n).trans ?_
    simp only [appended, BitVec.or_assoc, BitVec.or_self]
    rfl
  case full =>
    rw [Kept.full_eq_true.mpr hw2]
    simp only [appended, discardNotice, setEvent, ↓reduceIte, BitVec.or_assoc]
    rfl

/-- Settles O16. -/
theorem relaySlotEnded : Obligations.RelaySlotEnded := by
  refine ⟨fun s k slot tag bin o ho hk he hw hown => ?_, fun s k slot tag bin o ho hk he hw hown => ?_⟩
  · have hc : Calm s := ⟨he, hw⟩
    rw [endRelaySlot_of_calm hc ho hk, if_pos hown]
    exact congrArg (notify _)
      (writeOutcome_of_calm (s := { s with busCount := s.busCount + 1 }) hc (not_fault_of_open ho) hk slot o)
  · rw [endRelaySlot_of_calm ⟨he, hw⟩ ho hk, if_neg hown]

/-- Settles O17. -/
theorem busErrorEntersExchangeFault : Obligations.BusErrorEntersExchangeFault := by
  refine ⟨fun s a n hd he => ?_, fun s a bs hd he hw => ?_, fun s a n bs hd =>
    ⟨readExchange_faulted hd a n, writeExchange_faulted hd a bs⟩⟩
  · rw [readExchange_busError hd he]; exact ⟨rfl, rfl, rfl⟩
  · rw [writeExchange_busError hd he]
    refine ⟨rfl, rfl, fun x hx => ?_⟩
    calc Memory.get (Memory.putLanded (countAccess s).mem a bs s.bus.landed) x
        = Memory.get (countAccess s).mem x := Memory.get_putLanded_outside hx
      _ = Memory.get s.mem x := by rw [countAccess_of_no_writes hw]

end Sys2Proof

/-!
SUPPORT. Starts and polls in a command in which the host writes nothing and no bus error occurs (R159, R160, R163 to R166):
what the walk reads at its cursor, what a poll leaves before its walk, and what a start leaves before its poll.
-/

namespace Sys2Proof.Machine

variable {s : State} {k : Kept}

/-- The next accesses of the running command meet neither a host write nor the bus error. -/
def Clear (n : Nat) (s : State) : Prop := s.bus.writes = [] ∧ ∀ i < n, s.bus.errorAt ≠ some (s.busCount + i)

theorem Calm.clear (hc : Calm s) {n : Nat} : Clear n s := ⟨hc.2, fun i _ => by simp [hc.1]⟩

theorem readExchange_of_clear {n : Nat} (hc : Clear (n + 1) s) (hd : s.device ≠ .exchangeFault) (a m : Nat) :
    readExchange a m s = (some (Memory.bytes s.mem a m), { s with busCount := s.busCount + 1 }) :=
  readExchange_of_ok hc.1 (hc.2 0 (Nat.succ_pos n)) hd a m

theorem Clear.next {n : Nat} (hc : Clear (n + 1) s) : Clear n { s with busCount := s.busCount + 1 } :=
  ⟨hc.1, fun i hi => by
    have h := hc.2 (i + 1) (by omega)
    rwa [← Nat.add_assoc, Nat.add_right_comm] at h⟩

/-! ## The walk -/

theorem byteAt_own_eq_one (m : List Host.Cell) (a : Nat) : byteAt (Memory.bytes m a 1) 0 = 1 ↔ Memory.get m a = 1#8 :=
  byteAt_owner m a 1#8

theorem readCursor_before_posted (hc : Clear 1 s) (hd : s.device ≠ .exchangeFault) {i : Nat} (hp : isPosted s k i) :
    readCursor k (.before i) s = (some (.posted i), { s with busCount := s.busCount + 1 }) := by
  unfold isPosted at hp
  simp only [readCursor, readExchange_of_clear hc hd, byteAt_own_eq_one, hp, if_true]

theorem readCursor_before_free (hc : Calm s) (hd : s.device ≠ .exchangeFault) {i : Nat} (hp : ¬isPosted s k i) :
    readCursor k (.before i) s = (some .ends, { s with busCount := s.busCount + 1 }) := by
  unfold isPosted at hp
  simp only [readCursor, readExchange_of_calm hc hd, byteAt_own_eq_one, hp, if_false]

theorem readCursor_anchor_end (hc : Calm s) (hd : s.device ≠ .exchangeFault) {a : Nat}
    (hl : linkOf s k a = Config.linkEnd) :
    readCursor k (.anchor a) s = (some .ends, { s with busCount := s.busCount + 1 }) := by
  unfold linkOf at hl
  simp only [readCursor, readExchange_of_calm hc hd, hl, if_true]

theorem readCursor_anchor_out (hc : Calm s) (hd : s.device ≠ .exchangeFault) {a : Nat}
    (hl : linkOf s k a ≠ Config.linkEnd) (hr : k.slotCount ≤ linkOf s k a ∨ linkOf s k a = a) :
    readCursor k (.anchor a) s = (some .broken, { s with busCount := s.busCount + 1 }) := by
  unfold linkOf at hl hr
  simp only [readCursor, readExchange_of_calm hc hd, if_neg hl]
  exact if_neg (by omega)

/-- At a link that names another slot of the chain, the walk reads that slot's ownership. -/
theorem readCursor_anchor_slot (hc : Clear 2 s) (hd : s.device ≠ .exchangeFault) {a : Nat}
    (hl : linkOf s k a ≠ Config.linkEnd) (hr : linkOf s k a < k.slotCount) (ha : linkOf s k a ≠ a) :
    readCursor k (.anchor a) s =
      (some (if Memory.get s.mem (k.slotAddr (linkOf s k a)) = 1#8 then .posted (linkOf s k a) else .broken),
        { s with busCount := s.busCount + 2 }) := by
  simp only [readCursor, readExchange_of_clear hc hd]
  refine (if_neg hl).trans ((if_pos ⟨hr, ha⟩).trans ?_)
  rw [readExchange_of_clear hc.next hd]
  simp only [byteAt_own_eq_one]; rfl

theorem readCursor_anchor_posted (hc : Clear 2 s) (hd : s.device ≠ .exchangeFault) {a : Nat}
    (hl : linkOf s k a ≠ Config.linkEnd) (hr : linkOf s k a < k.slotCount) (ha : linkOf s k a ≠ a)
    (hp : isPosted s k (linkOf s k a)) :
    readCursor k (.anchor a) s = (some (.posted (linkOf s k a)), { s with busCount := s.busCount + 2 }) := by
  unfold isPosted at hp
  rw [readCursor_anchor_slot hc hd hl hr ha, if_pos hp]

theorem readCursor_anchor_free (hc : Calm s) (hd : s.device ≠ .exchangeFault) {a : Nat}
    (hl : linkOf s k a ≠ Config.linkEnd) (hr : linkOf s k a < k.slotCount) (ha : linkOf s k a ≠ a)
    (hp : ¬isPosted s k (linkOf s k a)) :
    readCursor k (.anchor a) s = (some .broken, { s with busCount := s.busCount + 2 }) := by
  unfold isPosted at hp
  rw [readCursor_anchor_slot hc.clear hd hl hr ha, if_neg hp]

theorem walk_none (hcur : s.cursor = none) (n : Nat) : walk n k s = s := by
  cases n <;> simp [walk, hcur]

theorem walk_of_ends {c : Cursor} {s1 : State} (hcur : s.cursor = some c) (hr : readCursor k c s = (some .ends, s1))
    (n : Nat) : walk (n + 1) k s = s1 := by
  unfold walk; simp only [hcur, hr]

theorem walk_of_broken {c : Cursor} {s1 : State} (hcur : s.cursor = some c)
    (hr : readCursor k c s = (some .broken, s1)) (n : Nat) : walk (n + 1) k s = brokenLink s1 := by
  unfold walk; simp only [hcur, hr]

theorem walk_of_posted {c : Cursor} {s1 : State} {slot : Nat} (hcur : s.cursor = some c)
    (hr : readCursor k c s = (some (.posted slot), s1)) (n : Nat) :
    walk (n + 1) k s = if faulted (takeSlot k slot s1) then takeSlot k slot s1 else walk n k (takeSlot k slot s1) := by
  conv_lhs => unfold walk
  simp only [hcur, hr]

/-! ## The poll -/

/-- A poll with its take index read and no gap open, before its walk (R163). -/
def polled (s : State) (n : Nat) : State :=
  { s with pollCount := 0, kept := s.kept.map (Kept.reread s), busCount := n }

theorem poll_of_clear (hc : Clear 1 s) (hd : s.device = .running) (hk : s.kept = some k) (hg : s.gap = none) :
    poll s = walk (k.slotCount + 2) k (polled s (s.busCount + 1)) := by
  have hf : s.device ≠ .exchangeFault := by simp [hd]
  have hp : (if faulted (polled s (s.busCount + 1)) = true then polled s (s.busCount + 1)
      else putGap (polled s (s.busCount + 1))) = polled s (s.busCount + 1) :=
    (if_neg (faulted_ne_true hf)).trans (putGap_none hg)
  unfold poll
  split
  case h_1 hk' => rw [hk] at hk'; cases hk'
  case h_2 k' hk' =>
    obtain rfl : k' = k := by rw [hk] at hk'; exact (Option.some.inj hk').symm
    rw [if_pos hd]
    dsimp only
    rw [show readTakeIndex { s with pollCount := 0 } = polled s (s.busCount + 1) from
      readTakeIndex_of_ok (s := { s with pollCount := 0 }) hc.1 (hc.2 0 Nat.one_pos) hf, hp]
    refine (if_neg (faulted_ne_true hf)).trans ?_
    rw [walkBound, show (polled s (s.busCount + 1)).bus.writes = [] from hc.1]
    rfl

/-! ## What the walk of a poll does -/

theorem walk_of_walkEnds (hc : Calm s) (hd : s.device ≠ .exchangeFault) (he : walkEnds s k) (n : Nat) :
    ∃ c, walk (n + 1) k s = { s with busCount := c } := by
  unfold walkEnds at he
  split at he
  case h_1 i hcur => exact ⟨_, walk_of_ends hcur (readCursor_before_free hc hd he) n⟩
  case h_2 a hcur => exact ⟨_, walk_of_ends hcur (readCursor_anchor_end hc hd he) n⟩
  case h_3 hcur => exact ⟨s.busCount, walk_none hcur _⟩

/-- A walk whose cursor names a POSTED slot takes it and goes on (R164). -/
theorem walk_of_walkFinds (hc : Calm s) (hd : s.device ≠ .exchangeFault) {slot n : Nat} (hf : walkFinds s k slot n)
    (m : Nat) : walk (m + 1) k s =
      (fun s1 => if faulted s1 then s1 else walk m k s1)
        (takeSlot k slot { s with busCount := s.busCount + (n - 1) }) := by
  unfold walkFinds at hf
  split at hf
  case h_1 i hcur =>
    obtain ⟨rfl, rfl, hp⟩ := hf
    exact walk_of_posted hcur (readCursor_before_posted hc.clear hd hp) m
  case h_2 a hcur =>
    obtain ⟨rfl, rfl, hl, hr, ha, hp⟩ := hf
    exact walk_of_posted hcur (readCursor_anchor_posted hc.clear hd hl hr ha hp) m
  case h_3 => exact hf.elim

/-- A broken link ends the walk with the device BROKEN (R165). -/
theorem walk_of_broken_link (hc : Calm s) (hd : s.device ≠ .exchangeFault) {a : Nat} (hcur : s.cursor = some (.anchor a))
    (hl : linkOf s k a ≠ Config.linkEnd)
    (hb : k.slotCount ≤ linkOf s k a ∨ linkOf s k a = a ∨ ¬isPosted s k (linkOf s k a)) (n : Nat) :
    ∃ c, walk (n + 1) k s = brokenLink { s with busCount := c } := by
  by_cases hr : k.slotCount ≤ linkOf s k a ∨ linkOf s k a = a
  · exact ⟨_, walk_of_broken hcur (readCursor_anchor_out hc hd hl hr) n⟩
  · have hp : ¬isPosted s k (linkOf s k a) := by tauto
    exact ⟨_, walk_of_broken hcur (readCursor_anchor_free hc hd hl (by omega) (by omega) hp) n⟩

/-! ## Polls at the end of their command -/

theorem endBus_bus_nil (hb : s.bus = {}) : endBus s = { s with bus := {}, busCount := 0 } := by
  simp [endBus, hb, Memory.hostWrites]

theorem endBus_poll_of_ends (hb : s.bus = {}) (hd : s.device = .running) (hk : s.kept = some k) (hg : s.gap = none)
    (he : walkEnds s k) : endBus (poll s) = afterEmptyPoll s := by
  have hc := calm_of_bus hb
  obtain ⟨c, hw⟩ := walk_of_walkEnds (s := polled s (s.busCount + 1)) (k := k) hc (by simp [polled, hd]) he
    (k.slotCount + 1)
  rw [poll_of_clear hc.clear hd hk hg, hw, endBus_bus_nil (by exact hb)]
  rfl

theorem endBus_poll_of_broken (hb : s.bus = {}) (hd : s.device = .running) (hk : s.kept = some k) (hg : s.gap = none)
    {a : Nat} (hcur : s.cursor = some (.anchor a)) (hl : linkOf s k a ≠ Config.linkEnd)
    (hl' : k.slotCount ≤ linkOf s k a ∨ linkOf s k a = a ∨ ¬isPosted s k (linkOf s k a)) :
    endBus (poll s) = { afterEmptyPoll s with
      device := .broken, events := s.events ||| 0x04#32, pollDue := false } := by
  have hc := calm_of_bus hb
  obtain ⟨c, hw⟩ := walk_of_broken_link (s := polled s (s.busCount + 1)) (k := k) hc (by simp [polled, hd]) hcur hl hl'
    (k.slotCount + 1)
  rw [poll_of_clear hc.clear hd hk hg, hw, endBus_bus_nil (by exact hb)]
  rfl

theorem endBus_poll_of_finds (hb : s.bus = {}) (hd : s.device = .running) (hk : s.kept = some k) (hg : s.gap = none)
    {slot n m : Nat} (hf : walkFinds s k slot n) (hm : s.busCount + n = m) :
    endBus (poll s) = afterTaking k slot m s := by
  subst hm
  have hc := calm_of_bus hb
  have hn : 1 ≤ n := by
    unfold walkFinds at hf
    split at hf <;> [omega; omega; exact hf.elim]
  rw [poll_of_clear hc.clear hd hk hg, walk_of_walkFinds (s := polled s (s.busCount + 1)) hc (by simp [polled, hd]) hf]
  have hs : { polled s (s.busCount + 1) with busCount := (polled s (s.busCount + 1)).busCount + (n - 1) } =
      { s with pollCount := 0, kept := s.kept.map (Kept.reread s), bus := {}, busCount := s.busCount + n } := by
    simp only [polled, hb, State.mk.injEq, true_and, and_true]
    omega
  rw [hs]
  rfl

/-! ## The commands that poll -/

theorem exec_nudge_running (v : BitVec 32) (hd : s.device = .running) :
    exec (.nudge v {}) s = .next (endBus (poll (beginBus {} s))) :=
  congrArg (fun t => Host.Outcome.next (endBus t)) (nudged_of_running (s := beginBus {} s) hd)

theorem exec_chainPoll_due (hp : s.pollDue = true) :
    exec (.chainPoll {}) s = .next (endBus (poll { beginBus {} s with pollDue := false })) :=
  congrArg (fun t => Host.Outcome.next (endBus t)) (if_pos hp)

theorem exec_runSet_stopped (hd : s.device = .stopped) :
    exec (.runSet {}) s = .next (endBus (poll { beginBus {} s with run := true, device := .running })) :=
  congrArg (fun t => Host.Outcome.next (endBus t)) (setRun_stopped (s := beginBus {} s) hd)

theorem exec_runSet_idle (bus : Bus) (hd : s.device = .idle) :
    exec (.runSet bus) s = .next (finishBus bus (start { beginBus (inForce bus) s with run := true })) :=
  congrArg (fun t => Host.Outcome.next (finishBus bus t)) (setRun_idle (s := beginBus (inForce bus) s) hd)

theorem exec_chainStart_kept {v : BitVec 32} (hk : s.kept = some k) (hd : s.device = .stopped ∨ s.device = .broken)
    (hi : v.toNat % 65536 < k.slotCount) :
    exec (.chainStart v {}) s = .next (endBus (poll { beginBus {} s with
      cursor := some (.before (v.toNat % 65536)), run := true, device := .running })) :=
  congrArg (fun t => Host.Outcome.next (endBus t)) (chainRestart_of_kept (s := beginBus {} s) hk hd hi)

/-! ## Starts -/

theorem start_of_bad_base (h : s.exchangeBase = 0#64 ∨ s.exchangeBase.toNat % 64 ≠ 0) : start s = startFails s :=
  if_pos h

/-- A start at a usable base reads the header once and goes by its checks (R159). -/
theorem start_of_clear (hc : Clear 1 s) (hd : s.device ≠ .exchangeFault) (h0 : s.exchangeBase ≠ 0#64)
    (h64 : s.exchangeBase.toNat % 64 = 0) {h : Header}
    (hh : h = Header.ofBytes (Memory.bytes s.mem s.exchangeBase.toNat 64)) :
    start s = (if h.passes s.exchangeBase.toNat then startRuns h else startFails)
      { s with busCount := s.busCount + 1 } := by
  subst hh
  unfold start
  rw [if_neg (not_or.mpr ⟨h0, not_not.mpr h64⟩), readExchange_of_clear hc hd]
  dsimp only [Config.headerBytes]
  split <;> rfl

/-- What a start that has passed the checks leaves with the write index in the header (R160). -/
def indexWritten (h : Header) (s : State) : State :=
  { s with
    kept := some h.kept, tickPeriod := tickPeriodOf h.tickRate, cursor := some (.before h.firstSlot)
    pollCount := 0, pollDue := false, gap := none
    mem := Memory.put s.mem (s.exchangeBase.toNat + 28) (le16 h.takeIndex), busCount := s.busCount + 1 }

/-- A start whose write of the write index is completed goes on with the line image, and then polls. -/
theorem startRuns_of_clear (hc : Clear 1 s) (hd : s.device ≠ .exchangeFault) (h : Header) :
    startRuns h s = (fun t => if faulted t then t else poll { t with device := .running })
      (writeExchange (s.exchangeBase.toNat + 32) (le32 (lineImage s)) (indexWritten h s)) := by
  have hw := writeExchange_of_ok (s := { s with
    kept := some h.kept, tickPeriod := tickPeriodOf h.tickRate, cursor := some (.before h.firstSlot)
    pollCount := 0, pollDue := false, gap := none }) hc.1 (hc.2 0 Nat.one_pos) hd (s.exchangeBase.toNat + 28)
    (le16 h.takeIndex)
  unfold startRuns
  dsimp only at hw ⊢
  rw [hw]
  rfl

/-- What a start leaves that has passed the checks, before its poll, after a number of accesses (R160). -/
def started (h : Header) (n : Nat) (s : State) : State :=
  { s with
    run := true, device := .running, tickPeriod := tickPeriodOf h.tickRate, kept := some h.kept
    cursor := some (.before h.firstSlot), pollCount := 0, pollDue := false, gap := none
    mem := Memory.put (Memory.put s.mem (s.exchangeBase.toNat + 28) (le16 h.takeIndex)) (s.exchangeBase.toNat + 32)
      (le32 (lineImage s))
    bus := {}, busCount := n }

theorem startRuns_of_calm (hb : s.bus = {}) (hd : s.device ≠ .exchangeFault) (hr : s.run = true) (h : Header) :
    startRuns h s = poll (started h (s.busCount + 2) s) := by
  have hc := calm_of_bus hb
  rw [startRuns_of_clear hc.clear hd, writeExchange_of_calm (s := indexWritten h s) hc hd]
  refine (if_neg (faulted_ne_true hd)).trans ?_
  simp only [indexWritten, started, ← hr, ← hb]

/-- RUN_SET in IDLE, without effects of its bus operand. -/
theorem exec_runSet_idle_nil (hd : s.device = .idle) :
    exec (.runSet {}) s = .next (endBus (start { s with run := true, bus := {}, busCount := 0 })) :=
  exec_runSet_idle {} hd

/-- RUN_SET in IDLE with a header that passes makes three accesses before its poll. -/
theorem exec_runSet_started (hd : s.device = .idle) (h0 : s.exchangeBase ≠ 0#64) (h64 : s.exchangeBase.toNat % 64 = 0)
    {h : Header} (hh : h = Header.ofBytes (Memory.bytes s.mem s.exchangeBase.toNat 64))
    (hp : h.passes s.exchangeBase.toNat = true) :
    exec (.runSet {}) s = .next (endBus (poll (started h 3 s))) := by
  have hd' : s.device ≠ .exchangeFault := by simp [hd]
  have hstart := start_of_clear (s := { s with run := true, bus := {}, busCount := 0 }) (Calm.clear ⟨rfl, rfl⟩) hd' h0 h64 hh
  have hruns := startRuns_of_calm (s := { s with run := true, bus := {}, busCount := 1 }) rfl hd' rfl h
  rw [exec_runSet_idle_nil hd, hstart, if_pos (by exact hp)]
  exact congrArg (fun t => Host.Outcome.next (endBus t)) hruns

theorem overlaps_eq_false {a n b m : Nat} : overlaps a n b m = false ↔ b + m ≤ a ∨ a + n ≤ b := by
  simp [overlaps]; omega

/-- The slots lie outside the header, whose writes leave their ownership bytes (R159). -/
theorem isPosted_started {h : Header} (hp : h.passes s.exchangeBase.toNat = true) (n : Nat) :
    isPosted (started h n s) h.kept h.firstSlot ↔ Memory.get s.mem (h.slotBase + 160 * h.firstSlot) = 1#8 := by
  have hout : h.slotBase + 160 * h.firstSlot < s.exchangeBase.toNat ∨
      s.exchangeBase.toNat + 64 ≤ h.slotBase + 160 * h.firstSlot := by
    simp only [Header.passes, Bool.and_eq_true, Bool.not_eq_true', decide_eq_true_eq, overlaps_eq_false] at hp
    have hslots : Config.slotBytes = 160 := rfl
    have hheader : Config.headerBytes = 64 := rfl
    rw [hslots, hheader] at hp
    omega
  have hmem : Memory.get (started h n s).mem (h.kept.slotAddr h.firstSlot) =
      Memory.get s.mem (h.slotBase + 160 * h.firstSlot) :=
    (Memory.get_put_outside _ _ _ _ (by simp only [length_le32, Kept.slotAddr, Header.kept, Config.slotBytes]; omega)).trans
      (Memory.get_put_outside _ _ _ _ (by simp only [length_le16, Kept.slotAddr, Header.kept, Config.slotBytes]; omega))
  unfold isPosted
  rw [hmem]

/-- The writes of a start leave the take index in the header, so that reading it again keeps it. -/
theorem reread_started {h : Header} (hh : h = Header.ofBytes (Memory.bytes s.mem s.exchangeBase.toNat 64)) (n : Nat) :
    Kept.reread (started h n s) h.kept = h.kept := by
  have hread : takeIndexRead (started h n s) = h.takeIndex := by
    calc takeIndexRead (started h n s)
        = word16At (Memory.bytes s.mem (s.exchangeBase.toNat + 30) 2) 0 := by
          unfold takeIndexRead
          rw [show (started h n s).mem = Memory.put (Memory.put s.mem (s.exchangeBase.toNat + 28) (le16 h.takeIndex))
            (s.exchangeBase.toNat + 32) (le32 (lineImage s)) from rfl]
          rw [Memory.bytes_put_outside, Memory.bytes_put_outside]
          · rfl
          · exact .inr le_rfl
          · exact .inl le_rfl
      _ = h.takeIndex := by rw [hh]; exact (word16At_bytes (by decide)).symm
  unfold Kept.reread
  rw [hread]
  split <;> rfl

end Sys2Proof.Machine

namespace Sys2Proof

open Machine

/-- Settles O9: each of the four commands makes its own poll, which finds nothing. -/
theorem pollFindsNothing : Obligations.PollFindsNothing := by
  refine ⟨fun s k v hk hg hd he => ?_, fun s k hk hg hd he hp => ?_, fun s k hk hg hd he => ?_,
    fun s k v hk hg hd hv he => ?_⟩
  · exact (exec_nudge_running v hd).trans (congrArg _ (endBus_poll_of_ends rfl hd hk hg he))
  · exact (exec_chainPoll_due hp).trans (congrArg _ (endBus_poll_of_ends rfl hd hk hg he))
  · exact (exec_runSet_stopped hd).trans (congrArg _ (endBus_poll_of_ends rfl rfl hk hg he))
  · exact (exec_chainStart_kept hk hd hv).trans (congrArg _ (endBus_poll_of_ends rfl rfl hk hg he))

/-- Settles O10. -/
theorem brokenLinkStopsIntake : Obligations.BrokenLinkStopsIntake := fun _ _ _ v hk hg hd hcur hl hb =>
  (exec_nudge_running v hd).trans (congrArg _ (endBus_poll_of_broken rfl hd hk hg hcur hl hb))

/-- Settles O7: the header that is read decides, and a bad base is not read at all. -/
theorem startFails : Obligations.StartFails := by
  refine ⟨fun bus s hb hd hbase => ?_, fun s hd h0 h64 hp => ?_⟩
  · rw [exec_runSet_idle bus hd, start_of_bad_base (by exact hbase), inForce_of_no_reset hb]
    unfold finishBus
    rw [hb]
    rfl
  · have hstart := start_of_clear (s := { s with run := true, bus := {}, busCount := 0 }) (Calm.clear ⟨rfl, rfl⟩) (by simp [hd]) h0 h64
      rfl
    rw [exec_runSet_idle_nil hd, hstart, if_neg (by exact Bool.not_eq_true _ ▸ hp)]
    rfl

/-- Settles O8: after the writes of the start, its poll finds the first slot not POSTED. -/
theorem startKeepsHeaderAndRuns : Obligations.StartKeepsHeaderAndRuns := by
  intro s h hd h0 h64 hh hp hslot
  rw [exec_runSet_started hd h0 h64 hh hp,
    endBus_poll_of_ends (k := h.kept) rfl rfl rfl rfl (by exact (isPosted_started hp _).not.mpr hslot), afterEmptyPoll,
    show (started h 3 s).kept = some h.kept from rfl, Option.map_some, reread_started hh]
  rfl

/-- Settles O12: the reads and writes of a taking and of an end at once, and the polls whose walk finds a slot. -/
theorem postedSlotTakenAndEnded : Obligations.PostedSlotTakenAndEnded := by
  refine ⟨fun s k slot hd he hw => ?take, fun s k slot tag code o ho hk he hw hcode =>
      endRequest_of_calm ⟨he, hw⟩ ho hk slot tag code hcode, fun s k slot n v hk hg hd hf => ?nudge,
    fun s k slot n hk hg hd hp hf => ?chainPoll, fun s k slot n hk hg hd hf => ?runSet,
    fun s k v slot hk hg hd hs hlt hp => ?chainStart, fun s h hd h0 h64 hh hp hslot => ?start⟩
  case take =>
    have hc : Calm s := ⟨he, hw⟩
    unfold takeSlot
    rw [readExchange_of_calm hc hd]
    dsimp only
    rw [writeExchange_of_calm]
    · refine (if_neg (faulted_ne_true hd)).trans ?_
      rw [byteAt_bytes (by decide), word32At_bytes (by decide), Memory.drop_bytes]
    · exact hc
    · exact hd
  case nudge =>
    rw [exec_nudge_running v hd, endBus_poll_of_finds (s := beginBus {} s) rfl hd hk hg hf (Nat.zero_add n)]
    rfl
  case chainPoll =>
    rw [exec_chainPoll_due hp]
    refine congrArg _ (endBus_poll_of_finds (n := n) ?_ ?_ ?_ ?_ ?_ (Nat.zero_add n))
    exacts [rfl, hd, hk, hg, hf]
  case runSet =>
    rw [exec_runSet_stopped hd]
    refine congrArg _ (endBus_poll_of_finds (n := n) ?_ ?_ ?_ ?_ ?_ (Nat.zero_add n))
    exacts [rfl, rfl, hk, hg, hf]
  case chainStart =>
    subst hs
    rw [exec_chainStart_kept hk hd hlt]
    refine congrArg _ (endBus_poll_of_finds (n := 2) ?_ ?_ ?_ ?_ ?_ rfl)
    exacts [rfl, rfl, hk, hg, ⟨rfl, rfl, hp⟩]
  case start =>
    rw [exec_runSet_started hd h0 h64 hh hp]
    exact congrArg _ (endBus_poll_of_finds (k := h.kept) rfl rfl rfl rfl ⟨rfl, rfl, (isPosted_started hp _).mpr hslot⟩
      rfl)

end Sys2Proof

/-!
SUPPORT. Commands that a reset cuts short (R173): until the reset takes effect, the access at which it arrives and those
after it are not made. `Cut` is what stands once that access is due.
-/

namespace Sys2Proof.Machine

variable {s : State} {k : Kept}

/-! ## A command cut before its first access -/

/-- Memory is `m`, the host writes nothing, and no access will change it: the next one is not made and enters EXCHANGE_FAULT,
or the device stands there. With `q`, the command may also have ended in IDLE. -/
def Cut (m : List Host.Cell) (q : Prop) (s : State) : Prop :=
  s.mem = m ∧ s.bus.writes = [] ∧ s.bus.landed = [] ∧
    (s.device = .exchangeFault ∨ q ∧ s.device = .idle ∨ s.bus.errorAt = some s.busCount)

variable {m : List Host.Cell} {q : Prop}

theorem Memory.putLanded_nil (m : List Host.Cell) (a : Nat) (bs : List Byte) : Memory.putLanded m a bs [] = m := by
  cases bs <;> rfl

/-- A read that is not made leaves EXCHANGE_FAULT. -/
theorem readExchange_of_cut (hs : Cut m False s) (a n : Nat) :
    (readExchange a n s).1 = none ∧ Cut m False (readExchange a n s).2 := by
  obtain ⟨hm, hw, hl, hd⟩ := hs
  by_cases hf : s.device = .exchangeFault
  · rw [readExchange_faulted hf]; exact ⟨rfl, hm, hw, hl, .inl hf⟩
  · have he : s.bus.errorAt = some s.busCount := by simpa [hf] using hd
    rw [readExchange_busError hf he, countAccess_of_no_writes hw]
    exact ⟨rfl, hm, hw, hl, .inl rfl⟩

theorem writeExchange_of_cut (hs : Cut m False s) (a : Nat) (bs : List Byte) :
    Cut m False (writeExchange a bs s) ∧ (writeExchange a bs s).device = .exchangeFault := by
  obtain ⟨hm, hw, hl, hd⟩ := hs
  by_cases hf : s.device = .exchangeFault
  · rw [writeExchange_faulted hf]; exact ⟨⟨hm, hw, hl, .inl hf⟩, hf⟩
  · have he : s.bus.errorAt = some s.busCount := by simpa [hf] using hd
    rw [writeExchange_busError hf he, countAccess_of_no_writes hw, hl, Memory.putLanded_nil]
    exact ⟨⟨hm, hw, hl, .inl rfl⟩, rfl⟩

theorem putNotice_of_cut (hs : Cut m False s) (n : Notice) : Cut m False (putNotice n s) := by
  unfold putNotice
  split
  · exact hs
  · obtain ⟨h1, h2⟩ := writeExchange_of_cut hs (‹Kept›.ringBase + Config.noticeBytes * ‹Kept›.writeIndex) n.bytes
    dsimp only
    rw [if_pos (by simp [faulted, h2])]
    exact h1

theorem readTakeIndex_of_cut (hs : Cut m False s) : Cut m False (readTakeIndex s) := by
  have h := readExchange_of_cut hs (s.exchangeBase.toNat + 30) 2
  unfold readTakeIndex
  split <;> rename_i heq <;> rw [heq] at h
  · exact absurd h.1 (by simp)
  · exact h.2

theorem putGap_of_cut (hs : Cut m False s) : Cut m False (putGap s) := by
  unfold putGap
  split
  · exact hs
  · split <;> [exact hs; exact putNotice_of_cut (s := { s with gap := none }) hs _]

theorem Cut.weaken (hs : Cut m False s) : Cut m q s :=
  ⟨hs.1, hs.2.1, hs.2.2.1, hs.2.2.2.imp_right fun h => .inr (h.resolve_left And.left)⟩

/-- A device that writes the exchange area is not in IDLE. -/
theorem Cut.strengthen (hs : Cut m q s) (ho : exchangeOpen s = true) : Cut m False s := by
  obtain ⟨hm, hw, hl, hd⟩ := hs
  refine ⟨hm, hw, hl, hd.imp_right fun h => .inr (h.resolve_left fun h' => ?_)⟩
  rw [not_open (.inl h'.2)] at ho
  cases ho

theorem notify_of_cut (hs : Cut m q s) (n : Notice) : Cut m q (notify n s) := by
  unfold notify
  split
  · exact hs
  · rename_i ho
    have h0 := hs.strengthen (by simpa using ho)
    have h1 : Cut m False (if ringFull s = true then readTakeIndex s else s) := by
      split <;> [exact readTakeIndex_of_cut h0; exact h0]
    generalize (if ringFull s = true then readTakeIndex s else s) = s1 at h1 ⊢
    dsimp only
    split
    · exact h1.weaken
    · have h2 := putGap_of_cut h1
      split
      · exact h2.weaken
      · split <;> [exact Cut.weaken h2; exact (putNotice_of_cut h2 n).weaken]

theorem writeOutcome_of_cut (hs : Cut m False s) (slot : Nat) (o : Outcome) : Cut m False (writeOutcome slot o s) := by
  unfold writeOutcome
  split <;> [exact hs; exact (writeExchange_of_cut (writeExchange_of_cut hs _ _).1 _ _).1]

theorem endRelaySlot_of_cut (hs : Cut m q s) (slot : Nat) (t : Tag) (b : BinId) (o : Outcome) :
    Cut m q (endRelaySlot slot t b o s) := by
  unfold endRelaySlot
  split
  · exact hs
  · rename_i ho
    have h0 := hs.strengthen (by simpa using ho)
    split
    · exact hs
    · rename_i k _
      have h1 := readExchange_of_cut h0 (k.slotAddr slot) 1
      split <;> rename_i heq <;> rw [heq] at h1
      · exact h1.2.weaken
      · exact absurd h1.1 (by simp)

theorem endRequest_of_cut (hs : Cut m False s) (slot : Nat) (t : Tag) (c : Code) :
    Cut m False (endRequest slot t c s) := by
  unfold endRequest
  split
  · exact hs
  · dsimp only
    split <;> [exact writeOutcome_of_cut hs _ _; exact notify_of_cut (writeOutcome_of_cut hs _ _) _]

theorem cut_hears (m : List Host.Cell) (q : Prop) : Hears (Cut m q) where
  stack _ _ _ _ hs := hs
  stackRecs _ _ _ hs := hs
  placeWait _ _ hs := hs
  standby _ _ _ hs := hs
  outq _ _ hs := hs
  robots _ _ _ hs := hs
  relays _ _ _ hs := hs
  deferred _ _ hs := hs
  decide _ _ _ _ _ _ hs := hs
  remove _ _ hs := hs
  toTail _ _ hs := hs
  notify _ n hs := notify_of_cut hs n
  endSlot _ _ _ _ _ hs := endRelaySlot_of_cut hs _ _ _ _
  anyStack _ _ _ _ hs := hs
  anyRobot _ _ _ _ hs := hs
  linkState _ _ _ _ hs := hs
  rx _ _ hs := hs
  tx _ _ hs := hs
  event _ _ hs := hs

theorem cut_outer (m : List Host.Cell) : Outer (Cut m False) where
  toHears := cut_hears m False
  hold _ _ hs := hs
  lines _ _ _ hs := hs
  image s hs := by unfold writeImage; split <;> [exact hs; exact (writeExchange_of_cut hs _ _).1]
  tuning _ _ hs := hs
  addRobot _ _ _ _ hs := hs
  dropRobots _ _ hs := hs
  addRelay _ _ _ _ _ _ hs := hs
  endRequest _ _ _ _ hs := endRequest_of_cut hs _ _ _
  read _ _ _ hs := (readExchange_of_cut hs _ _).2
  write _ _ _ hs := (writeExchange_of_cut hs _ _).1
  takeIndex _ hs := readTakeIndex_of_cut hs
  gap _ hs := putGap_of_cut hs
  cursor _ _ hs := hs
  pollCount _ _ hs := hs
  pollDue _ _ hs := hs
  device _ _ _ h1 _ _ hs := ⟨hs.1, hs.2.1, hs.2.2.1, .inr (.inr (by simpa [h1] using hs.2.2.2))⟩
  started _ _ _ _ hs := hs
  clearMode _ _ hs := hs
  readEvents _ hs := hs
  writeEvents s v hs := by obtain h | h := writeEvents_cases v s <;> rw [h] <;> exact hs
  writeMask _ _ hs := hs
  writeBase s v hs := by obtain h | h := writeBase_cases v s <;> rw [h] <;> exact hs
  tick s hs := by
    have h := portPart_advanceTick s
    have h1 : (advanceTick s).mem = s.mem := (congrArg State.mem h :)
    have h2 : (advanceTick s).bus = s.bus := (congrArg State.bus h :)
    have h3 : (advanceTick s).device = s.device := (congrArg State.device h :)
    have h4 : (advanceTick s).busCount = s.busCount := (congrArg State.busCount h :)
    unfold Cut
    rw [h1, h2, h3, h4]
    exact hs

/-! ## Every command cut before its first access -/

variable {bus : Bus} {k' : ResetKind}

theorem cut_beginBus (hb : bus.reset = some ⟨k', 0⟩) (hw : bus.writes = []) (s : State) :
    Cut s.mem q (beginBus (inForce bus) s) := by
  have h : inForce bus = { bus with errorAt := some 0, landed := [] } := by
    unfold inForce
    rw [hb]
    exact if_neg (by simp)
  rw [h]
  exact ⟨rfl, hw, rfl, .inr (.inr rfl)⟩

theorem applyReset_mem (k : ResetKind) (s : State) : (applyReset k s).mem = s.mem := by cases k <;> rfl

theorem applyReset_device (k : ResetKind) (s : State) : (applyReset k s).device = .idle := by cases k <;> rfl

theorem applyReset_bus (k : ResetKind) (s : State) : (applyReset k s).bus = s.bus := by cases k <;> rfl

/-- The reset at a command's end leaves the device IDLE. -/
theorem finishBus_of_cut (hb : bus.reset = some ⟨k', 0⟩) (hs : Cut m True s) : Cut m True (finishBus bus s) := by
  obtain ⟨hm, hw, -, -⟩ := hs
  unfold finishBus
  rw [hb]
  refine ⟨?_, ?_, ?_, .inr (.inl ⟨trivial, applyReset_device _ _⟩)⟩
  · rw [applyReset_mem, endBus, hw]; exact hm
  · rw [applyReset_bus]; rfl
  · rw [applyReset_bus]; rfl

theorem withBus_of_cut (hb : bus.reset = some ⟨k', 0⟩) (hw : bus.writes = []) {f : State → State} {t : State}
    (hf : ∀ s, Cut m False s → Cut m False (f s)) (he : withBus bus f s = .next t) (hm : s.mem = m) : t.mem = m := by
  cases he
  subst hm
  exact (finishBus_of_cut hb (hf _ (cut_beginBus hb hw s)).weaken).1

theorem softReset_of_cut (hb : bus.reset = some ⟨k', 0⟩) (hw : bus.writes = []) {t : State}
    (he : withBus bus softReset s = .next t) : t.mem = s.mem := by
  cases he
  obtain ⟨h1, h2, h3, -⟩ := cut_beginBus (q := True) hb hw s
  have hs : Cut s.mem True (softReset (beginBus (inForce bus) s)) := ⟨h1, h2, h3, .inr (.inl ⟨trivial, rfl⟩)⟩
  exact (finishBus_of_cut hb hs).1

/-- A reset that arrives before the first access leaves host memory, whatever the command (R173). -/
theorem exec_of_cut (c : Instr) {t : State} (hb : c.bus.reset = some ⟨k', 0⟩) (hw : c.bus.writes = [])
    (he : exec c s = .next t) : t.mem = s.mem := by
  have h := cut_outer s.mem
  by_cases hp : c.isHop = true
  · have he' := (exec_beginBus (not_plain_of_isHop hp) (inForce c.bus) s).trans he
    exact (exec_hop_keeps (cut_hears s.mem True) c hp (fun _ => cut_beginBus hb hw (beginBus _ s))
      (fun _ => finishBus_of_cut hb) he' (cut_beginBus hb hw s)).1
  cases c with
  | runSet bus => exact withBus_of_cut hb hw (fun _ hs => setRun_keeps h hs) he rfl
  | hold bus => exact withBus_of_cut hb hw (fun _ hs => writeHold_keeps h hs) he rfl
  | resume bus => exact withBus_of_cut hb hw (fun _ hs => writeResume_keeps h hs) he rfl
  | nudge value bus => exact withBus_of_cut hb hw (fun _ hs => nudged_keeps h hs) he rfl
  | chainStart value bus => exact withBus_of_cut hb hw (fun _ hs => chainRestart_keeps h _ hs) he rfl
  | registerWrite offset value bus =>
    by_cases hr : offset = 0x04 ∧ value.getLsbD 1 = true
    · obtain ⟨rfl, hv⟩ := hr
      refine softReset_of_cut hb hw (.trans (withBus_congr ?_) he)
      exact (writeControl_reset (by rwa [getLsbD_setWidth_32 _ (by decide)])).symm
    · refine withBus_of_cut hb hw (fun _ hs => writeRegister_keeps h _ _ {} (fun hc => absurd ?_ hr) hs) he rfl
      simpa [Instr.resets, Instr.isReset, Instr.bus] using hc
  | chainPoll bus =>
    refine withBus_of_cut hb hw (f := fun s => if s.pollDue then poll { s with pollDue := false } else s)
      (fun _ hs => ?_) he rfl
    split <;> [exact poll_keeps h (h.pollDue _ _ hs); exact hs]
  | debounceExpiry line bus =>
    change execDebounceExpiry line bus s = .next t at he
    unfold execDebounceExpiry at he
    split at he
    · exact withBus_of_cut hb hw (fun _ hs => actDeferred_keeps h.toInner (debounceExpired_keeps h _ hs)) he rfl
    · cases he
  | rawLineChange line level bus =>
    change execRawLineChange line level bus s = .next t at he
    unfold execRawLineChange at he
    split at he
    · exact withBus_of_cut hb hw (fun _ hs => actDeferred_keeps h.toInner (rawChanged_keeps h _ _ hs)) he rfl
    · cases he
  | _ => first | exact absurd rfl hp | cases hb

/-! ## A NUDGE cut before TAKEN is written -/

/-- A reset that arrives at an access of a NUDGE ends the command's accesses there. -/
def CutAt (e : Nat) (s : State) : Prop :=
  s.bus.writes = [] ∧ s.bus.landed = [] ∧ s.bus.errorAt = some e ∧ s.device ≠ .exchangeFault

/-- The accesses of a command have ended, with host memory as it was. -/
def Ended (m : List Host.Cell) (s : State) : Prop := s.device = .exchangeFault ∧ s.mem = m ∧ s.bus.writes = []

variable {e : Nat}

theorem CutAt.clear {n : Nat} (hc : CutAt e s) (hn : s.busCount + n ≤ e) : Clear n s :=
  ⟨hc.1, fun i hi => by rw [hc.2.2.1]; intro h; cases h; omega⟩

theorem CutAt.read (hc : CutAt e s) (hn : s.busCount = e) (a n : Nat) :
    ∃ s', readExchange a n s = (none, s') ∧ Ended s.mem s' := by
  obtain ⟨hw, -, he, hd⟩ := hc
  rw [readExchange_busError hd (by rw [he, hn]), countAccess_of_no_writes hw]
  exact ⟨_, rfl, rfl, rfl, hw⟩

theorem CutAt.write (hc : CutAt e s) (hn : s.busCount = e) (a : Nat) (bs : List Byte) :
    Ended s.mem (writeExchange a bs s) := by
  obtain ⟨hw, hl, he, hd⟩ := hc
  rw [writeExchange_busError hd (by rw [he, hn]), countAccess_of_no_writes hw, hl, Memory.putLanded_nil]
  exact ⟨rfl, rfl, hw⟩

theorem Ended.faulted (h : Ended m s) : faulted s = true := by simp [Machine.faulted, h.1]

theorem takeSlot_of_cutAt (hc : CutAt e s) (h1 : s.busCount ≤ e) (h2 : e ≤ s.busCount + 1) (slot : Nat) :
    Ended s.mem (takeSlot k slot s) := by
  unfold takeSlot
  obtain hn | hn := h1.eq_or_lt
  · obtain ⟨s', hr, he⟩ := hc.read hn (k.slotAddr slot + 1) 143
    rw [hr]
    exact he
  · rw [readExchange_of_clear (n := 0) (hc.clear (by omega)) hc.2.2.2]
    have hw := CutAt.write (s := { s with busCount := s.busCount + 1 }) hc (by show s.busCount + 1 = e; omega)
      (k.slotAddr slot) [2#8]
    dsimp only
    rw [if_pos hw.faulted]
    exact hw

/-- The reading of the cursor is cut at its first access. -/
theorem readCursor_of_cutAt (hc : CutAt e s) (hn : s.busCount = e) (c : Cursor) :
    ∃ s', readCursor k c s = (none, s') ∧ Ended s.mem s' := by
  unfold readCursor
  cases c with
  | before i =>
    obtain ⟨s', hr, he⟩ := hc.read hn (k.slotAddr i) 1
    exact ⟨s', by simp only [hr], he⟩
  | anchor a =>
    obtain ⟨s', hr, he⟩ := hc.read hn (k.slotAddr a + 2) 2
    exact ⟨s', by simp only [hr], he⟩

/-- The reading of the ownership behind the anchor's link is cut. -/
theorem readCursor_anchor_of_cutAt (hc : CutAt e s) (hn : s.busCount + 1 = e) {a : Nat}
    (hl : linkOf s k a ≠ Config.linkEnd) (hr : linkOf s k a < k.slotCount) (ha : linkOf s k a ≠ a) :
    ∃ s', readCursor k (.anchor a) s = (none, s') ∧ Ended s.mem s' := by
  obtain ⟨s', hr', he⟩ := CutAt.read (s := { s with busCount := s.busCount + 1 }) hc hn (k.slotAddr (linkOf s k a)) 1
  refine ⟨s', ?_, he⟩
  simp only [readCursor, readExchange_of_clear (n := 0) (hc.clear (by omega)) hc.2.2.2]
  refine (if_neg hl).trans ((if_pos ⟨hr, ha⟩).trans ?_)
  unfold linkOf at hr'
  simp only [hr']

theorem walk_of_none {c : Cursor} {s1 : State} (hcur : s.cursor = some c) (hr : readCursor k c s = (none, s1))
    (n : Nat) : walk (n + 1) k s = s1 := by
  unfold walk; simp only [hcur, hr]

/-- A walk that is cut before TAKEN is written leaves host memory. -/
theorem walk_of_cutAt (hc : CutAt e s) {slot n : Nat} (hf : walkFinds s k slot n) (h1 : s.busCount ≤ e)
    (h2 : e ≤ s.busCount + n) (m : Nat) : Ended s.mem (walk (m + 1) k s) := by
  have hd := hc.2.2.2
  have htake {s1 : State} {c : Cursor} (hcur : s.cursor = some c) (hr : readCursor k c s = (some (.posted slot), s1))
      (he : Ended s.mem (takeSlot k slot s1)) : Ended s.mem (walk (m + 1) k s) := by
    rw [walk_of_posted hcur hr, if_pos he.faulted]; exact he
  have hnone {s1 : State} {c : Cursor} (hcur : s.cursor = some c) (hr : readCursor k c s = (none, s1))
      (he : Ended s.mem s1) : Ended s.mem (walk (m + 1) k s) := by
    rw [walk_of_none hcur hr]; exact he
  unfold walkFinds at hf
  split at hf
  case h_1 i hcur =>
    obtain ⟨rfl, rfl, hp⟩ := hf
    obtain hn | hn := h1.eq_or_lt
    · obtain ⟨s', hr, he⟩ := readCursor_of_cutAt (k := k) hc hn (.before slot)
      exact hnone hcur hr he
    · refine htake hcur (readCursor_before_posted (hc.clear (by omega)) hd hp) ?_
      exact takeSlot_of_cutAt (s := { s with busCount := s.busCount + 1 }) hc (by exact hn) (by exact h2) slot
  case h_2 a hcur =>
    obtain ⟨rfl, rfl, hl, hr, ha, hp⟩ := hf
    obtain hn | hn := h1.eq_or_lt
    · obtain ⟨s', hr, he⟩ := readCursor_of_cutAt (k := k) hc hn (.anchor a)
      exact hnone hcur hr he
    obtain hn | hn := (Nat.succ_le_of_lt hn).eq_or_lt
    · obtain ⟨s', hr, he⟩ := readCursor_anchor_of_cutAt hc hn hl hr ha
      exact hnone hcur hr he
    · refine htake hcur (readCursor_anchor_posted (hc.clear (by omega)) hd hl hr ha hp) ?_
      exact takeSlot_of_cutAt (s := { s with busCount := s.busCount + 2 }) hc (by exact hn) (by exact h2) _
  case h_3 => exact hf.elim

/-- A poll that is cut before its walk writes TAKEN leaves host memory. -/
theorem poll_of_cutAt (hc : CutAt e s) (h0 : s.busCount = 0) (hd : s.device = .running) (hk : s.kept = some k)
    (hg : s.gap = none) {slot n : Nat} (hf : walkFinds s k slot n) (hn : e ≤ n + 1) : Ended s.mem (poll s) := by
  have hf' : s.device ≠ .exchangeFault := by simp [hd]
  obtain he | he := Nat.eq_zero_or_pos e
  · obtain ⟨s', hr, hs'⟩ := CutAt.read (s := { s with pollCount := 0 }) hc (h0.trans he.symm)
      (s.exchangeBase.toNat + 30) 2
    have ht : readTakeIndex { s with pollCount := 0 } = s' := by unfold readTakeIndex; simp only [hr]
    unfold poll
    split
    case h_1 hk' => rw [hk] at hk'; cases hk'
    case h_2 =>
      rw [if_pos hd]
      simp only [ht, hs'.faulted, if_true]
      exact hs'
  · rw [poll_of_clear (hc.clear (by omega)) hd hk hg]
    exact walk_of_cutAt (s := polled s (s.busCount + 1)) hc hf (by show s.busCount + 1 ≤ e; omega)
      (by show e ≤ s.busCount + 1 + n; omega) _

/-! ## A start cut at the write of the line image -/

/-- The write of the write index, the second access of a start, is completed when the reset arrives at the third; the
line image is not written. -/
theorem start_of_cutAt (hc : CutAt 2 s) (hn : s.busCount = 0) (h0 : s.exchangeBase ≠ 0#64)
    (h64 : s.exchangeBase.toNat % 64 = 0) {h : Header}
    (hh : h = Header.ofBytes (Memory.bytes s.mem s.exchangeBase.toNat 64))
    (hp : h.passes s.exchangeBase.toNat = true) :
    start s = { indexWritten h s with busCount := 3, device := .exchangeFault, events := s.events ||| 0x40#32 } := by
  have ⟨hw, hl, he, hd⟩ := hc
  rw [start_of_clear (hc.clear (by omega)) hd h0 h64 hh, if_pos hp,
    startRuns_of_clear (s := { s with busCount := s.busCount + 1 })
      (CutAt.clear hc (by show s.busCount + 1 + 1 ≤ 2; omega)) hd]
  have hcut : (indexWritten h { s with busCount := s.busCount + 1 }).bus.errorAt =
      some (indexWritten h { s with busCount := s.busCount + 1 }).busCount := by
    show s.bus.errorAt = some (s.busCount + 1 + 1); rw [he, hn]
  rw [writeExchange_busError (by exact hd) hcut, countAccess_of_no_writes (by exact hw), show
    (indexWritten h { s with busCount := s.busCount + 1 }).bus.landed = [] from hl, Memory.putLanded_nil]
  simp only [indexWritten, hn]
  rfl

end Sys2Proof.Machine

namespace Sys2Proof

open Machine

/-- Settles O3: a reset keeps what `softReset` keeps; one that arrives ends the command's accesses at its own. -/
theorem softResetKeepsBaseAndTick : Obligations.SoftResetKeepsBaseAndTick := by
  refine ⟨fun s => ⟨softReset s, powerOn s, rfl, rfl, rfl, rfl, rfl, rfl⟩, fun c s t r hr he => ?ends,
    fun c s t k hb hw he => exec_of_cut c hb hw he, fun s k slot n m v kind hk hg hd hf hm => ?nudge,
    fun s h hd h0 h64 hh hp => ?start⟩
  case ends =>
    have hc : isPlain c = false := by
      cases hp : isPlain c
      · rfl
      · rw [bus_of_isPlain hp] at hr; cases hr
    obtain ⟨f, hf⟩ := exec_withBus hc he
    rw [withBus_of_reset _ hr] at hf
    cases hf
    refine ⟨fun hk => ?_, fun hk => ?_⟩ <;> rw [hk]
    · exact congrArg Host.Outcome.next (powerOn_powerOn _)
    · exact congrArg Host.Outcome.next (softReset_softReset _)
  case nudge =>
    refine ⟨_, withBus_of_reset _ rfl nudged, ?_⟩
    rw [nudged_of_running (by exact hd), applyReset_mem, applyReset_device]
    have hend := poll_of_cutAt (s := beginBus (inForce { reset := some ⟨kind, m⟩ }) s) (e := m)
      ⟨rfl, rfl, rfl, by simp [hd]⟩ rfl hd hk hg hf hm
    rw [endBus, hend.2.2]
    exact ⟨hend.2.1, rfl⟩
  case start =>
    have hstart := start_of_cutAt (s := { beginBus (inForce { reset := some ⟨.soft, 2⟩ }) s with run := true })
      ⟨rfl, rfl, rfl, by simp [hd]⟩ rfl h0 h64 hh hp
    refine ⟨_, _, (exec_runSet_idle _ hd).trans (congrArg _ (congrArg (finishBus _) hstart)), rfl, rfl, rfl, rfl⟩

end Sys2Proof

/-!
SUPPORT. The fleet link's bytes (R138, R139): the receiver's hunt, and a frame with its CRC received back.
-/

namespace Sys2Proof

/-! ## The hunt -/

/-- What follows a valid frame is shorter than the bytes behind its start byte. -/
theorem Front.valid_length {bs more : List Byte} {f : InFrame} (h : Front.ofBytes bs = .valid f more) :
    more.length < bs.length := by
  cases bs with
  | nil => cases h
  | cons len rest =>
    rw [Front.ofBytes] at h
    split at h
    · cases h
    split at h
    · cases h
    split at h
    · split at h
      · cases h
        simp only [List.length_drop, List.length_cons]
        omega
      · cases h
    · cases h

/-- Any bound above the number of bytes gives the same frames. -/
theorem huntFrames_bound {n m : Nat} {buf : List Byte} (hn : buf.length < n) (hm : buf.length < m) :
    huntFrames n buf = huntFrames m buf := by
  induction n generalizing m buf with
  | zero => exact absurd hn (Nat.not_lt_zero _)
  | succ n ih =>
    obtain ⟨m, rfl⟩ : ∃ m', m = m' + 1 := ⟨m - 1, by omega⟩
    cases buf with
    | nil => rfl
    | cons b rest =>
      simp only [List.length_cons] at hn hm
      have hrest := ih (m := m) (buf := rest) (by omega) (by omega)
      rw [huntFrames, huntFrames]
      split
      · split
        · rfl
        · exact hrest
        · rename_i f more hv
          have hlt := Front.valid_length hv
          rw [ih (m := m) (buf := more) (by omega) (by omega)]
      · exact hrest

theorem huntFrames_eq_receive {n : Nat} {buf : List Byte} (hn : buf.length < n) : huntFrames n buf = receive buf :=
  huntFrames_bound hn (Nat.lt_succ_self _)

theorem receive_cons_other {b : Byte} (h : b ≠ Config.startByte) (more : List Byte) :
    receive (b :: more) = receive more := by
  rw [receive, huntFrames, if_neg h]
  exact huntFrames_eq_receive (by simp)

theorem receive_cons_bad {more : List Byte} (h : Front.ofBytes more = .bad) :
    receive (Config.startByte :: more) = receive more := by
  rw [receive, huntFrames, if_pos rfl, h]
  exact huntFrames_eq_receive (by simp)

theorem receive_cons_valid {bs more : List Byte} {f : InFrame} (h : Front.ofBytes bs = .valid f more) :
    receive (Config.startByte :: bs) = (f :: (receive more).1, (receive more).2) := by
  have hlt := Front.valid_length h
  rw [receive, huntFrames, if_pos rfl, h]
  dsimp only
  rw [huntFrames_eq_receive (by simp only [List.length_cons]; omega)]

/-! ## A frame with its CRC -/

theorem length_crcBytes (bs : List Byte) : (crcBytes bs).length = 2 := rfl

theorem Front.ofBytes_frame {typed more : List Byte} {f : InFrame} (h1 : 1 ≤ typed.length) (h32 : typed.length ≤ 32)
    (hf : InFrame.ofTyped typed = some f) :
    Front.ofBytes (BitVec.ofNat 8 typed.length :: (typed ++ (crcBytes (BitVec.ofNat 8 typed.length :: typed) ++ more))) =
      .valid f more := by
  have hlen : (BitVec.ofNat 8 typed.length).toNat = typed.length := by
    rw [BitVec.toNat_ofNat]; exact Nat.mod_eq_of_lt (by omega)
  rw [Front.ofBytes, hlen, if_neg (by omega), if_neg (by simp [length_crcBytes]; omega)]
  rw [List.take_left, List.drop_left, List.take_left' (length_crcBytes _), if_pos rfl, hf]
  dsimp only
  rw [List.drop_append, List.drop_of_length_le (by omega), List.nil_append, Nat.add_sub_cancel_left,
    List.drop_left' (length_crcBytes _)]

theorem linkWord16_split (w : BitVec 16) : linkWord16 ((w >>> 8).setWidth 8) (w.setWidth 8) = w := by
  apply BitVec.eq_of_getLsbD_eq
  intro i hi
  simp only [linkWord16, BitVec.getLsbD_or, BitVec.getLsbD_shiftLeft, BitVec.getLsbD_setWidth,
    BitVec.getLsbD_ushiftRight]
  by_cases h : i < 8
  · simp [h, hi]
  · have h8 : i - 8 < 8 := by omega
    have h16 : i - 8 < 16 := by omega
    simp [h, hi, h8, h16, show 8 + (i - 8) = i by omega]

/-- The type and body bytes of an inbound frame spell it. -/
theorem InFrame.ofTyped_typed (f : InFrame) : InFrame.ofTyped f.typed = some f := by
  cases f with
  | report robot seq r =>
    cases r with
    | liftDone level load =>
      change some (InFrame.report robot seq (.liftDone level (linkWord16 _ _))) = _
      rw [linkWord16_split]
    | _ => rfl
  | _ => rfl

theorem InFrame.typed_length (f : InFrame) : 1 ≤ f.typed.length ∧ f.typed.length ≤ 32 := by
  cases f with
  | report robot seq r => cases r <;> simp [InFrame.typed, Report.data]
  | _ => simp [InFrame.typed]

/-- Settles O43: the length, the CRC and the type of a frame that a robot sends agree. -/
theorem everyFrameReceivedBack : Obligations.EveryFrameReceivedBack := by
  intro f more
  obtain ⟨h1, h32⟩ := f.typed_length
  have hfront := Front.ofBytes_frame (more := more) h1 h32 f.ofTyped_typed
  rw [← receive_cons_valid hfront]
  congr 1
  simp [frameAround]

end Sys2Proof

namespace Sys2Proof.Machine

variable {s : State} {bus : Bus}

/-! ## Bytes in which no valid frame is found -/

theorem takeBytes_of_no_frame {bytes rest : List Byte} (h : receive bytes = ([], rest)) :
    takeBytes bytes s = { s with rx := rest } := by
  unfold takeBytes; rw [h]; rfl

/-! ## Frames on a link that is UP -/

theorem linkHears_up (h : s.linkUp = true) : linkHears s = s := if_pos h

/-- A command that is one frame, during which no reset arrives. -/
theorem oneFrame_eq (f : InFrame) (hb : bus.reset = none) (s : State) :
    oneFrame f bus s = .next (endBus (takeFrame { beginBus bus s with rx := [] } f)) :=
  withBus_of_no_reset s hb _

theorem takeFrame_report (robot seq : Byte) (r : Report) (hl : s.linkUp = true) :
    takeFrame s (.report robot seq r) = applyReport robot.toNat seq r s := by rw [takeFrame, linkHears_up hl]

theorem takeFrame_position (robot x y : Byte) (hl : s.linkUp = true) :
    takeFrame s (.position robot x y) = applyPosition robot.toNat x y s := by rw [takeFrame, linkHears_up hl]

theorem takeFrame_fault (robot : Byte) (hl : s.linkUp = true) :
    takeFrame s (.fault robot) = actDeferred (applyFault robot.toNat s) := by rw [takeFrame, linkHears_up hl]

theorem takeFrame_beacon (hl : s.linkUp = true) :
    takeFrame s .beacon = { s with silence := 0, silenceDue := false } := by rw [takeFrame, linkHears_up hl]

theorem applyReport_unmatched {robot : Nat} {seq : Byte} {r : Report}
    (h : ∀ c, getRobot s robot = some c → matched c seq r = false) : applyReport robot seq r s = s := by
  unfold applyReport
  split
  · rfl
  · rename_i c hc; rw [h c hc]; rfl

theorem fits_approach {r : Report} (h1 : ∀ x y, r ≠ .arrived x y) (h2 : r ≠ .refused) :
    Report.fits r .approach = false := by
  cases r with
  | arrived x y => exact absurd rfl (h1 x y)
  | refused => exact absurd rfl h2
  | setDone _ | liftDone _ _ => rfl

theorem fits_set {r : Report} (h1 : ∀ l, r ≠ .setDone l) (h2 : r ≠ .refused) : Report.fits r .set = false := by
  cases r with
  | setDone l => exact absurd rfl (h1 l)
  | refused => exact absurd rfl h2
  | arrived _ _ | liftDone _ _ => rfl

theorem fits_lift {r : Report} (h1 : ∀ l w, r ≠ .liftDone l w) (h2 : r ≠ .refused) : Report.fits r .lift = false := by
  cases r with
  | liftDone l w => exact absurd rfl (h1 l w)
  | refused => exact absurd rfl h2
  | arrived _ _ | setDone _ => rfl

/-! ## A frame that brings the link UP -/

/-- A matched report changes what a move changes, and a robot's cell. -/
theorem applyReport_moves {P : State → Prop} (h : Moves P) {robot : Nat} {seq : Byte} {r : Report}
    (hcell : ∀ s f, (∀ c, Robot.id (f c) = c.id) → P s → P (modRobot robot f s)) (hs : P s) :
    P (applyReport robot seq r s) := by
  have hw : P (writeCell robot r (closeStep robot s)) := by
    have h1 := closeStep_keeps h.toQuiet robot hs
    unfold writeCell; split <;> [exact hcell _ _ (fun _ => rfl) h1; exact h1]
  unfold applyReport; split
  · exact hs
  · split
    · dsimp only; split
      · exact actDeferred_keeps h.toInner (settle_keeps h.toInner _ (sideReport_keeps h _ _ _ hw))
      · exact hw
      · exact hw
    · exact hs

/-- A set bit of a word stays set when others are. -/
theorem and_or_of_and {v w m : BitVec 32} (h : v &&& m = m) : (v ||| w) &&& m = m := by
  rw [BitVec.and_comm, BitVec.and_or_distrib_left, BitVec.and_comm m v, h]
  apply BitVec.eq_of_getLsbD_eq
  intro i _
  simp only [BitVec.getLsbD_or, BitVec.getLsbD_and]
  cases m.getLsbD i <;> simp

/-- An event that has been set stays set through the port's updates. -/
theorem eventStands_port (m : BitVec 32) : Port fun s => s.events &&& m = m := by
  constructor
  case fault => exact fun _ _ hs => and_or_of_and hs
  case event => exact fun _ _ hs => and_or_of_and hs
  all_goals intros; assumption

/-- The link is UP with a fresh silence count, and LINK is set. -/
def LinkFresh (s : State) : Prop := s.linkUp = true ∧ s.silence = 0 ∧ s.events &&& 0x10#32 = 0x10#32

theorem LinkFresh.port {s s' : State} (h : portless s' = portless s) (he : s'.events &&& 0x10#32 = 0x10#32)
    (hs : LinkFresh s) : LinkFresh s' :=
  ⟨(portless_field State.linkUp h fun _ => rfl).trans hs.1, (portless_field State.silence h fun _ => rfl).trans hs.2.1, he⟩

theorem linkFresh_moves : Moves LinkFresh where
  stack _ _ _ _ hs := hs
  stackRecs _ _ _ hs := hs
  placeWait _ _ hs := hs
  standby _ _ _ hs := hs
  outq _ _ hs := hs
  robots _ _ _ hs := hs
  relays _ _ _ hs := hs
  deferred _ _ hs := hs
  decide _ _ _ _ _ _ hs := hs
  remove _ _ hs := hs
  toTail _ _ hs := hs
  notify s n hs := hs.port (notify_portless s n) (notify_port (eventStands_port _) n hs.2.2)
  endSlot s _ _ _ _ hs := hs.port (endRelaySlot_portless s _ _ _ _) (endRelaySlot_port (eventStands_port _) _ _ _ _ hs.2.2)
  anyStack _ _ _ _ hs := hs

theorem linkFresh_linkComesUp (s : State) : LinkFresh (linkComesUp s) :=
  linkFresh_moves.notify _ _ ⟨rfl, rfl, by
    change (s.events ||| 0x10#32) &&& 0x10#32 = 0x10#32
    rw [BitVec.or_comm]; exact and_or_of_and rfl⟩

/-- Whatever the valid frame, it leaves a DOWN link UP (R146). -/
theorem linkFresh_takeFrame (f : InFrame) (hl : s.linkUp = false) : LinkFresh (takeFrame s f) := by
  have h1 : LinkFresh (linkHears s) := by
    rw [linkHears, if_neg (by simp [hl])]; exact linkFresh_linkComesUp s
  unfold takeFrame; dsimp only; split
  · exact applyReport_moves linkFresh_moves (fun _ _ _ hs => hs) h1
  · exact h1
  · exact actDeferred_keeps linkFresh_moves.toInner (applyFault_keeps linkFresh_moves.toInner _ h1)
  · exact ⟨h1.1, rfl, h1.2.2⟩

end Sys2Proof.Machine

namespace Sys2Proof

open Machine

/-- Settles O44: the hunt's equations, and bytes without a valid frame are kept as the frame in progress. -/
theorem badFramesDropped : Obligations.BadFramesDropped := by
  refine ⟨fun b more h => receive_cons_other h more, fun more h => receive_cons_bad h,
    fun s bytes rest bus hb h => ?_, fun s bytes rest rest' bus hb h h' => ?_⟩
  · refine (withBus_of_no_reset s hb _).trans ?_
    rw [takeBytes_of_no_frame (by exact h)]
    rfl
  · have h1 : takeBytes ((beginBus bus s).rx ++ bytes) (beginBus bus s) = { beginBus bus s with rx := rest } :=
      takeBytes_of_no_frame h
    simp only [exec, execFrameAbandon]
    rw [withBus_of_no_reset s hb, h1, takeBytes_of_no_frame (by exact h')]
    rfl

/-- Settles O27. -/
theorem unmatchedReportDiscarded : Obligations.UnmatchedReportDiscarded := by
  intro s robot seq rep bus hb hl h
  have hun : ∀ c, getRobot { beginBus bus s with rx := [] } robot.toNat = some c → matched c seq rep = false := by
    intro c hc
    obtain hf | hf | ⟨p, hp, hno⟩ := h c hc
    · simp [matched, hf]
    · simp [matched, hf]
    · have hfit : p.seq ≠ seq ∨ Report.fits rep p.kind = false := by
        obtain hs | ⟨hk, h1, h2⟩ | ⟨hk, h1, h2⟩ | ⟨hk, h1, h2⟩ := hno
        · exact .inl hs
        · rw [hk]; exact .inr (fits_approach h1 h2)
        · rw [hk]; exact .inr (fits_set h1 h2)
        · rw [hk]; exact .inr (fits_lift h1 h2)
      obtain hs | hk := hfit
      · simp [matched, hp, hs]
      · simp [matched, hp, hk]
  have hframe : oneFrame (.report robot seq rep) bus s = .next { hostOnly bus s with rx := [] } := by
    rw [oneFrame_eq _ hb, takeFrame_report _ _ _ (by exact hl), applyReport_unmatched hun]
    rfl
  cases rep <;> exact hframe

/-- Settles O28. -/
theorem positionAndBeaconAct : Obligations.PositionAndBeaconAct := by
  refine ⟨fun s robot x y bus hb hl => ?_, fun s bus hb hl => ?_⟩
  case refine_2 =>
    refine (oneFrame_eq .beacon hb s).trans ?_
    rw [takeFrame_beacon (by exact hl)]
    rfl
  refine (oneFrame_eq (.position robot x y) hb s).trans ?_
  rw [takeFrame_position _ _ _ (by exact hl)]
  have hcell : (s.robots.map fun c => if c.id = robot.toNat then
        (if c.state = .faulted then c else { c with cell := some (x.toNat, y.toNat) }) else c) =
      s.robots.map fun c => if c.id = robot.toNat ∧ c.state ≠ .faulted then { c with cell := some (x.toNat, y.toNat) }
        else c := by
    refine List.map_congr_left fun c _ => ?_
    by_cases h1 : c.id = robot.toNat <;> by_cases h2 : c.state = .faulted <;> simp [h1, h2]
  rw [← hcell]
  rfl

/-- Settles O38: a valid frame leaves the link fresh, whatever it does behind that. -/
theorem linkGoesDownAndUp : Obligations.LinkGoesDownAndUp := by
  refine ⟨fun s bus hb hd hl => ?_, fun s c hb hl hc => ?_⟩
  · simp only [exec, execSilenceLimit]
    rw [withBus_of_no_reset s hb, if_pos (by simp [hd, hl])]
    rfl
  · have hframe (f : InFrame) : ∃ t : State, oneFrame f c.bus s = .next t ∧ t.linkUp = true ∧ t.silence = 0 ∧
        t.events &&& 0x10#32 = 0x10#32 :=
      ⟨_, oneFrame_eq f hb s, linkFresh_takeFrame (s := { beginBus c.bus s with rx := [] }) f hl⟩
    cases c with
    | arrived robot seq x y bus => exact hframe _
    | refused robot seq bus => exact hframe _
    | setDone robot seq level bus => exact hframe _
    | liftDone robot seq level load bus => exact hframe _
    | position robot x y bus => exact hframe _
    | fault robot bus => exact hframe _
    | beacon bus => exact hframe _
    | _ => exact hc.elim

end Sys2Proof

/-!
SUPPORT. The Timer Unit and the arbiter (R14, R15, R115 to R127): what a tick, a change of a bin's situation, a load check
and a warn leave, and what a run of the arbiter grants.
-/

namespace Sys2Proof.Machine

variable {s : State} {t : Tag} {r : Relay}

/-! ## The tick -/

theorem advanceSilence_eq (s : State) : advanceSilence s = { s with
    silence := if s.linkUp then min 255 (s.silence + 1) else s.silence
    silenceDue := s.silenceDue || (s.linkUp && decide (s.tuning.silenceLimit ≤ min 255 (s.silence + 1))) } := by
  unfold advanceSilence
  split
  case isTrue h => simp [h]
  case isFalse h =>
    have hdue : (s.silenceDue || (s.linkUp && decide (s.tuning.silenceLimit ≤ min 255 (s.silence + 1)))) = s.silenceDue := by
      simp [h]
    rw [hdue]

theorem advancePoll_eq (s : State) : advancePoll s = { s with
    pollCount := if s.device = .running ∧ s.kept.isSome then s.pollCount + 1 else s.pollCount
    pollDue := s.pollDue || (decide (s.device = .running) &&
      s.kept.any fun k => decide (k.pollInterval ≤ s.pollCount + 1)) } := by
  have hstand (h : ¬(s.device = .running ∧ s.kept.isSome = true)) : s = { s with
      pollCount := if s.device = .running ∧ s.kept.isSome then s.pollCount + 1 else s.pollCount
      pollDue := s.pollDue || (decide (s.device = .running) &&
        s.kept.any fun k => decide (k.pollInterval ≤ s.pollCount + 1)) } := by
    have hdue : (s.pollDue || (decide (s.device = .running) &&
        s.kept.any fun k => decide (k.pollInterval ≤ s.pollCount + 1))) = s.pollDue := by
      by_cases hd : s.device = .running
      · simp [Option.not_isSome_iff_eq_none.mp fun hk => h ⟨hd, hk⟩]
      · simp [hd]
    rw [if_neg h, hdue]
  unfold advancePoll
  split
  case h_1 k hk =>
    by_cases hd : s.device = .running
    · simp [hd, hk]
    · rw [if_neg hd]; exact hstand fun h => hd h.1
  case h_2 hk => exact hstand (by simp [hk])

/-! ## The exposure clock -/

theorem situationChanged_untracked (hr : getRelay s t = some r)
    (h : r.clock = none ∨ ∃ k, r.clock = some k ∧ k.expired = true) (b : Bool) : situationChanged t b s = s := by
  unfold situationChanged
  rw [onRelay_some _ hr]
  obtain h | ⟨k, h, he⟩ := h
  · rw [h]
  · rw [h]; exact if_pos he

theorem situationChanged_charges (hr : getRelay s t = some r) {k : Clock} (hk : r.clock = some k)
    (he : k.expired = false) (hb : k.used + charged s.tick k.opened < r.budget) :
    situationChanged t false s = modRelay t (fun q => { q with clock := some {
      used := k.used + charged s.tick k.opened
      opened := if outOfZone s q then some s.tick else none, expired := false, due := false } }) s := by
  unfold situationChanged
  rw [onRelay_some _ hr, hk]
  dsimp only
  rw [if_neg (by simp [he]), Nat.min_eq_right hb.le, if_neg hb.ne]
  simp

theorem expireClock_eq (hr : getRelay s t = some r) :
    expireClock t s = notify (exposedNotice s.tick t ((holdingRobot s r.bin).getD 0) (restingStack s r.bin) r.bin r.budget)
      (modRelay t (fun r => { r with
        clock := some { used := r.budget, opened := none, expired := true, due := false }
        flags := { r.flags with exposed := true } }) s) := by
  unfold expireClock
  rw [onRelay_some _ hr]
  rfl

/-! ## Expiries handed over -/

theorem actDeferred_nil (h : s.deferred = []) : actDeferred s = s := by
  unfold actDeferred
  rw [h, List.foldl_nil, ← h]

/-! ## The arbiter -/

/-- The part of a state that an opened step does not change: all but the robots, the relays and the outbound queue. -/
def stepless (s : State) : State := { s with robots := [], relays := [], outq := [] }

theorem openStep_stepless (x : Nat) (k : StepKind) (i l : Nat) (b : BinId) (s : State) :
    stepless (openStep x k i l b s) = stepless s := by
  unfold openStep; split <;> rfl

theorem giveStep_stepless (t : Tag) (x : Nat) (k : StepKind) (i l : Nat) (b : BinId) (st : GiveState) (s : State) :
    stepless (giveStep t x k i l b st s) = stepless s := openStep_stepless x k i l b s

theorem takeStep_stepless (t : Tag) (x : Nat) (k : StepKind) (i l : Nat) (b : BinId) (st : TakeState) (s : State) :
    stepless (takeStep t x k i l b st s) = stepless s := openStep_stepless x k i l b s

theorem grantTo_stepless (i : Nat) (e : Access) (l : Nat) (s : State) : stepless (grantTo i e l s) = stepless s := by
  unfold grantTo onRelay
  split
  · dsimp only
    split <;> split <;> first | rfl | exact giveStep_stepless .. | exact takeStep_stepless ..
  · rfl

theorem grantTo_stackRecs (i : Nat) (e : Access) (l : Nat) (s : State) : (grantTo i e l s).stackRecs = s.stackRecs :=
  (congrArg State.stackRecs (grantTo_stepless i e l s) :)

theorem getStack_of_stackRecs {s' : State} (h : s'.stackRecs = s.stackRecs) (i : Nat) : getStack s' i = getStack s i := by
  unfold getStack; rw [h]

/-- A stack outside the table reads as an undeclared one. -/
theorem lt_of_declared {i : Nat} (h : (getStack s i).state ≠ .undeclared) : i < s.stackRecs.length := by
  by_contra hi
  exact h (by simp [getStack, List.getElem?_eq_none (Nat.le_of_not_lt hi)])

theorem getStack_modStack_self {i : Nat} (f : StackRec → StackRec) (h : i < s.stackRecs.length) :
    getStack (modStack i f s) i = f (getStack s i) := by rw [getStack_modStack, if_pos ⟨rfl, h⟩]

theorem arbiter_of_none {i : Nat} (h : arbiterPick s i = none) : arbiter i s = s := by unfold arbiter; rw [h]

theorem arbiter_of_some {i : Nat} {e : Access} (h : arbiterPick s i = some e) :
    arbiter i s = grantTo i e ((getStack s i).workLevel e.purpose)
      (modRobot e.robot (fun c => { c with accessHeld := some i })
        (modStack i (fun k => { k with holder := some e, waits := k.waits.erase e }) s)) := by
  unfold arbiter; rw [h]

theorem arbiterPick_of_closed {i : Nat} (h : (getStack s i).holder ≠ none ∨ (getStack s i).state ≠ .active) :
    arbiterPick s i = none := by
  unfold arbiterPick
  refine if_pos ?_
  obtain h | h := h
  · simp [Option.isSome_iff_ne_none.mpr h]
  · simp [h]

theorem arbiterPick_of_open {i : Nat} (hh : (getStack s i).holder = none) (ha : (getStack s i).state = .active) :
    arbiterPick s i =
      ((getStack s i).waits.find? fun e => !e.purpose.isSet && (getStack s i).onTop e.bin && !holdsElsewhere s i e.robot).or
        (if (getStack s i).blocked then none
          else (getStack s i).waits.find? fun e => e.purpose.isSet && !holdsElsewhere s i e.robot) := by
  unfold arbiterPick
  dsimp only
  rw [if_neg (by simp [hh, ha])]
  split <;> rename_i heq <;> rw [heq] <;> rfl

/-- What a grant leaves of the stack's record (R15). -/
theorem getStack_arbiter_of_some {i : Nat} {e : Access} (h : arbiterPick s i = some e) :
    getStack (arbiter i s) i = { getStack s i with holder := some e, waits := (getStack s i).waits.erase e } := by
  have hi : i < s.stackRecs.length := lt_of_declared fun hu => by
    rw [arbiterPick_of_closed (.inr (by rw [hu]; decide))] at h; cases h
  rw [arbiter_of_some h, getStack_of_stackRecs (grantTo_stackRecs ..)]
  exact getStack_modStack_self _ hi

/-! ## Warns -/

/-- The update of a side's timer in a relay's record. -/
def Relay.onTimer (side : Side) (f : Timer → Timer) (r : Relay) : Relay :=
  match side with
  | .give => { r with give := { r.give with timer := r.give.timer.map f } }
  | .take => { r with take := { r.take with timer := r.take.timer.map f } }

theorem modTimer_eq (t : Tag) (side : Side) (f : Timer → Timer) (s : State) :
    modTimer t side f s = modRelay t (Relay.onTimer side f) s := by cases side <;> rfl

theorem Relay.onTimer_tag (side : Side) (f : Timer → Timer) (r : Relay) : (r.onTimer side f).tag = r.tag := by
  cases side <;> rfl

theorem getRelay_modTimer (hr : getRelay s t = some r) (side : Side) (f : Timer → Timer) :
    getRelay (modTimer t side f s) t = some (r.onTimer side f) := by
  rw [modTimer_eq, getRelay_modRelay _ _ _ _ (Relay.onTimer_tag side f), hr]
  simp

theorem lateStack_onTimer (s : State) (r : Relay) (side side' : Side) (f : Timer → Timer) :
    lateStack s (r.onTimer side' f) side = lateStack s r side := by
  cases side <;> cases side' <;> rfl

theorem actLate_eq (hr : getRelay s t = some r) (side : Side) (p : Phase) :
    actLate t side p s = notify (lateNotice s.tick t ((r.sideRobot side).getD 0) (lateStack s r side) r.bin p)
      (setFlag t (fun f => { f with late := true }) s) := by
  unfold actLate
  rw [onRelay_some _ hr]
  rfl

/-- A warn of a side that has been taken sets LATE (R123). -/
theorem actLate_takeWarn (hr : getRelay s t = some r) (side : Side) (p : Phase) :
    actLate t side p (takeWarn t side s) =
      notify (lateNotice s.tick t ((r.sideRobot side).getD 0) (lateStack s r side) r.bin p)
        (setFlag t (fun f => { f with late := true }) (modTimer t side (fun m => { m with warnDue := false }) s)) := by
  rw [takeWarn, actLate_eq (getRelay_modTimer hr side _), lateStack_onTimer]
  have hrobot : (r.onTimer side fun m => { m with warnDue := false }).sideRobot side = r.sideRobot side := by
    cases side <;> rfl
  have hbin : (r.onTimer side fun m => { m with warnDue := false }).bin = r.bin := by cases side <;> rfl
  rw [hrobot, hbin]
  rfl

theorem warnPhase_of_due (hr : getRelay s t = some r) {side : Side} {m : Timer} (hm : r.timer side = some m)
    (hd : m.warnDue = true) : warnPhase s t side = some m.phase := by
  simp [warnPhase, hr, hm, hd]

/-- A relay that does not allow shuffles starts none (R68). -/
theorem startShuffle_not_allowed (hr : getRelay s t = some r) (ha : r.allowShuffle = false) : startShuffle t s = none := by
  unfold startShuffle
  rw [hr]
  dsimp only
  split
  · exact if_neg (by simp [ha])
  · rfl

end Sys2Proof.Machine

namespace Sys2Proof

open Machine

/-- Settles O30: the tick's updates field by field. -/
theorem tickAdvancesClocks : Obligations.TickAdvancesClocks := by
  refine ⟨fun s hd => congrArg Host.Outcome.next (if_pos hd), fun s hd => congrArg Host.Outcome.next ?_⟩
  rw [if_neg hd, advanceTick, advancePoll_eq, advanceSilence_eq]
  rfl

/-- Settles O48. -/
theorem situationChangeChargesClock : Obligations.SituationChangeChargesClock :=
  ⟨fun _ _ _ _ hr hk he hb => situationChanged_charges hr hk he hb,
    fun _ _ _ hr h => situationChanged_untracked hr h false⟩

/-- Settles O47: the check's result by the reading and the reference. -/
theorem hopLiftLoadCheck : Obligations.HopLiftLoadCheck := by
  intro s tag i load c r hr
  unfold hopLoad
  rw [onRelay_some _ hr]
  refine ⟨fun hw => ?_, fun w hw hf => ?_, fun w ref hw hf hm => ?_, fun w ref hw hf hm hl => ?_,
    fun w ref hw hf hm hl he => ?_⟩
  · simp only [loadCheck, hw]
  · simp only [loadCheck, hw, hf]
  · simp only [loadCheck, hw, hf, hm, if_true]
  · simp only [loadCheck, hw, hf, hm, if_false, Bool.false_eq_true]
    refine if_neg fun h => ?_
    obtain hl | hl := hl
    · simp [hl] at h
    · exact hl h.2
  · simp only [loadCheck, hw, hf, hm, if_false, Bool.false_eq_true]
    exact if_pos ⟨hl, he⟩

/-- Settles O20: the two passes of the arbiter find the first entry of their kind. -/
theorem arbiterGrantsLiftsFirst : Obligations.ArbiterGrantsLiftsFirst := by
  intro s i k hk
  subst hk
  refine ⟨fun h => arbiter_of_none (arbiterPick_of_closed h), fun hh ha a b e hw he hcase => ?_⟩
  have hpick : arbiterPick s i = some e := by
    rw [arbiterPick_of_open hh ha]
    obtain ⟨hset, htop, hbefore⟩ | ⟨hset, hblocked, hlift, hbefore⟩ := hcase
    · rw [List.find?_eq_some_iff_append.mpr ⟨by simp [hset, htop, he], a, b, hw, fun x hx => ?_⟩]
      · rfl
      · obtain h | h | h := hbefore x hx <;> simp [h]
    · rw [List.find?_eq_none.mpr fun x hx => ?_, Option.none_or, if_neg (by simp [hblocked]),
        List.find?_eq_some_iff_append.mpr ⟨by simp [hset, he], a, b, hw, fun x hx => ?_⟩]
      · obtain h | h := hbefore x hx <;> simp [h]
      · obtain h | h | h := hlift x hx <;> simp [h]
  rw [getStack_arbiter_of_some hpick]
  exact ⟨hpick, rfl, rfl⟩

/-- Settles O32: a warn whose phase starts no shuffle reaches `actLate`. -/
theorem warnsSetLate : Obligations.WarnsSetLate := by
  refine ⟨fun s tag side bus r m hb hr hm hd hp => ?_, fun s tag bus r m hb hr hm hd hp ha => ?_⟩
  · have hr' : getRelay (beginBus bus s) tag = some r := hr
    simp only [exec, execStepWarn]
    rw [withBus_of_no_reset s hb, warnPhase_of_due hr' hm hd]
    dsimp only
    rw [if_neg hp, actLate_takeWarn hr']
    rfl
  · have hr' : getRelay (beginBus bus s) tag = some r := hr
    have hno : startShuffle tag (takeWarn tag .take (beginBus bus s)) = none :=
      startShuffle_not_allowed (getRelay_modTimer hr' .take _) ha
    simp only [exec, execBuryWarn]
    rw [withBus_of_no_reset s hb, if_pos (by rw [warnPhase_of_due (side := .take) hr' hm hd, hp]), hno]
    dsimp only
    rw [actLate_takeWarn hr']
    rfl

end Sys2Proof

/-!
SUPPORT. The requests (R166, R174 to R179): a refusal leaves the state, and what TUNE and STANDBY leave.
-/

namespace Sys2Proof.Machine

variable {s : State} {b : List Byte}

/-! ## Refusals -/

/-- A request that ends at once with a refusal has changed nothing. -/
def RefusalKeeps (s : State) (r : Code × State) : Prop := r.1 ≠ .done → r.2 = s

theorem RefusalKeeps.refused (s : State) (c : Code) : RefusalKeeps s (c, s) := fun _ => rfl

theorem RefusalKeeps.done (s t : State) : RefusalKeeps s (.done, t) := fun h => absurd rfl h

theorem requestDeclareStack_refused : RefusalKeeps s (requestDeclareStack b s) := by
  unfold requestDeclareStack
  repeat' split
  all_goals first | exact .refused s _ | exact .done s _

theorem requestDeclareRobot_refused : RefusalKeeps s (requestDeclareRobot b s) := by
  unfold requestDeclareRobot
  repeat' split
  all_goals first | exact .refused s _ | exact .done s _

theorem requestRetire_refused : RefusalKeeps s (requestRetire b s) := by
  unfold requestRetire
  repeat' split
  all_goals first | exact .refused s _ | exact .done s _

theorem requestTune_refused : RefusalKeeps s (requestTune b s) := by
  unfold requestTune
  split <;> [exact .refused s _; exact .done s _]

theorem requestLines_refused : RefusalKeeps s (requestLines b s) := by
  unfold requestLines
  repeat' split
  all_goals first | exact .refused s _ | exact .done s _

theorem requestStandby_refused : RefusalKeeps s (requestStandby b s) := by
  unfold requestStandby
  repeat' split
  all_goals first | exact .refused s _ | exact .done s _

theorem requestSeed_refused : RefusalKeeps s (requestSeed b s) := by
  unfold requestSeed
  repeat' split
  all_goals first | exact .refused s _ | exact .done s _

theorem requestWithdraw_refused : RefusalKeeps s (requestWithdraw b s) := by
  unfold requestWithdraw
  repeat' split
  all_goals first | exact .refused s _ | exact .done s _

theorem requestRuling_refused : RefusalKeeps s (requestRuling b s) := by
  unfold requestRuling
  repeat' split
  all_goals first | exact .refused s _ | exact .done s _

theorem requestRelay_refused {slot : Nat} {tag : Tag} {c : Code} {t : State}
    (h : requestRelay slot tag b s = (some c, t)) : t = s := by
  unfold requestRelay at h
  split at h
  · cases h; rfl
  · split at h <;> cases h
    rfl

/-- A refused request of any kind has changed nothing (R174). -/
theorem RequestKind.run_refused {kind : RequestKind} {slot : Nat} {tag : Tag} {c : Code} {t : State}
    (h : kind.run slot tag b s = (some c, t)) (hc : c ≠ .done) : t = s := by
  have hkeeps {r : Code × State} (hr : RefusalKeeps s r) (he : (some r.1, r.2) = (some c, t)) : t = s := by
    cases he; exact hr hc
  cases kind with
  | declareStack => exact hkeeps requestDeclareStack_refused h
  | declareRobot => exact hkeeps requestDeclareRobot_refused h
  | retire => exact hkeeps requestRetire_refused h
  | tune => exact hkeeps requestTune_refused h
  | lines => exact hkeeps requestLines_refused h
  | standby => exact hkeeps requestStandby_refused h
  | seed => exact hkeeps requestSeed_refused h
  | relay => exact requestRelay_refused h
  | withdraw => exact hkeeps requestWithdraw_refused h
  | ruling => exact hkeeps requestRuling_refused h

theorem RequestKind.ofCode_out {n : Nat} (h : n < 1 ∨ 10 < n) : RequestKind.ofCode n = none := by
  unfold RequestKind.ofCode
  split <;> first | omega | rfl

theorem RequestKind.ofCode_in {n : Nat} (h1 : 1 ≤ n) (h10 : n ≤ 10) : ∃ k, RequestKind.ofCode n = some k := by
  interval_cases n <;> exact ⟨_, rfl⟩

theorem slotActive_eq_true {slot : Nat} : slotActive s slot = true ↔ ∃ r ∈ s.relays, r.slot = slot := by
  simp [slotActive]

/-- In a slot of no active relay a request of a known kind reaches its block (R166). -/
theorem runSlot_of_kind {slot n : Nat} {tag : Tag} {k : RequestKind} (hk : RequestKind.ofCode n = some k)
    (ha : ∀ r ∈ s.relays, r.slot ≠ slot) : runSlot slot n tag b s = k.run slot tag b s := by
  unfold runSlot
  rw [hk]
  refine if_neg fun h => ?_
  obtain ⟨r, hr, hs⟩ := slotActive_eq_true.mp h
  exact ha r hr hs

/-! ## TUNE -/

/-- The settings after a TUNE, part by part (R179). -/
theorem tuning_apply_parts (u : Tune) (tn : Tuning) :
    ((tn.apply u).wd, (tn.apply u).wb, (tn.apply u).wf, (tn.apply u).wz) = u.weights.getD (tn.wd, tn.wb, tn.wf, tn.wz) ∧
    ((tn.apply u).tolAbs, (tn.apply u).tolRel) = u.tolerance.getD (tn.tolAbs, tn.tolRel) ∧
    (tn.apply u).timing = (u.timing.map fun p => tn.timing.set p.1 p.2).getD tn.timing ∧
    (tn.apply u).silenceLimit = (u.silence.map fun l => max 1 l).getD tn.silenceLimit := by
  obtain ⟨weights, tolerance, timing, silence⟩ := u
  unfold Tuning.apply
  cases weights <;> cases tolerance <;> cases timing <;> cases silence <;> exact ⟨rfl, rfl, rfl, rfl⟩

/-! ## STANDBY -/

/-- With no side waiting in the district, a robot that joins its queue stays there (R108). -/
theorem fillFromQueue_of_none {n d : Nat} (h : waitingTake s d = none) : fillFromQueue n d s = s := by
  cases n with
  | zero => rfl
  | succ n => rw [fillFromQueue, h]

end Sys2Proof.Machine

namespace Sys2Proof

open Machine

/-- Settles O13: each request answers a refusal with the state it was given. -/
theorem refusedRequestChangesNothing : Obligations.RefusedRequestChangesNothing := by
  refine ⟨fun slot kind tag body s t code h hc => ?_, fun slot kind tag body s h => ?_,
    fun slot kind tag body s h1 h10 hs => ?_⟩
  · unfold runSlot at h
    split at h
    · cases h; rfl
    · split at h
      · cases h; rfl
      · exact RequestKind.run_refused h hc
  · rw [runSlot, RequestKind.ofCode_out h]
  · obtain ⟨k, hk⟩ := RequestKind.ofCode_in h1 h10
    rw [runSlot, hk]
    exact if_pos (slotActive_eq_true.mpr hs)

/-- Settles O49. -/
theorem tuneAndStandbyRequests : Obligations.TuneAndStandbyRequests := by
  refine ⟨fun s slot tag b u ha hu => ?_, fun s slot tag b robot c ha hb hc hf hw => ?_,
    fun s slot tag b robot c ha hb hc hf => ?_⟩
  · obtain ⟨hw, ht, hm, hs⟩ := tuning_apply_parts u s.tuning
    refine ⟨s.tuning.apply u, ?_, hw, ht, fun n ps h => ?_, fun h => ?_, fun l h => ?_, fun h => ?_⟩
    · rw [runSlot_of_kind (k := .tune) rfl ha]
      simp only [RequestKind.run, requestTune, hu]
    · rw [hm, h]; rfl
    · rw [hm, h]; rfl
    · rw [hs, h]; rfl
    · rw [hs, h]; rfl
  · rw [runSlot_of_kind (k := .standby) rfl ha]
    simp only [RequestKind.run, requestStandby, hb, hc, hf, if_true]
    rw [fillFromQueue_of_none (by exact hw)]
    rfl
  · rw [runSlot_of_kind (k := .standby) rfl ha]
    simp only [RequestKind.run, requestStandby, hb, hc, hf, Bool.false_eq_true, if_false, if_true]
    rfl

end Sys2Proof

/-!
SUPPORT. The endings of relays (R63 to R65) and the reports that reach a side (R143, R144): a decided end stands until the
relay is gone, and the state in which a matched report reaches the block of its side.
-/

namespace Sys2Proof.Machine

variable {s : State} {t : Tag} {r : Relay} {code : Code} {bus : Bus}

/-! ## Ends that are not decided, and ends that are -/

theorem getRelay_mapRelays (s : State) (g : Relay → Relay) (hg : ∀ r, (g r).tag = r.tag) (t : Tag) :
    getRelay { s with relays := s.relays.map g } t = (getRelay s t).map g := find_map_tag _ _ hg _

theorem getRelay_modRelay_self (hr : getRelay s t = some r) (f : Relay → Relay)
    (hf : ∀ r, (f r).tag = r.tag := by intro _; rfl) : getRelay (modRelay t f s) t = some (f r) := by
  rw [getRelay_modRelay s t t f hf, hr]; simp

theorem getRelay_modRelay_other {t' : Tag} (h : t' ≠ t) (f : Relay → Relay)
    (hf : ∀ r, (f r).tag = r.tag := by intro _; rfl) : getRelay (modRelay t f s) t' = getRelay s t' := by
  rw [getRelay_modRelay s t t' f hf]; simp [h]

theorem getRobot_modRobot_self {x : Nat} {c : Robot} (hc : getRobot s x = some c) (f : Robot → Robot)
    (hf : ∀ c, (f c).id = c.id := by intro _; rfl) : getRobot (modRobot x f s) x = some (f c) := by
  rw [getRobot_modRobot s x x f hf, hc]; simp

/-- Moving a relay to the tail changes no record (R84). -/
theorem getRelay_toTail (s : State) (t t' : Tag) : getRelay (toTail t s) t' = getRelay s t' := by
  unfold getRelay toTail
  dsimp only
  rw [List.find?_append, List.find?_filter, List.find?_filter]
  by_cases h : t' = t
  · subst h
    rw [List.find?_eq_none.mpr (by simp), Option.none_or]
    congr 1; funext r
    by_cases hr : r.tag = t' <;> simp [hr]
  · rw [List.find?_eq_none (l := s.relays) (p := fun r => decide ((r.tag == t) = true ∧ (r.tag == t') = true)) |>.mpr
      fun r _ hr => h (by simp only [beq_iff_eq, decide_eq_true_eq] at hr; exact hr.2.symm.trans hr.1), Option.or_none]
    congr 1; funext r
    by_cases hr : r.tag = t' <;> simp [hr, h]

/-- No end of a relay is pending. -/
def NotEnding (t : Tag) (s : State) : Prop := ∀ r, getRelay s t = some r → r.endPending = none

theorem notEnding_of (hr : getRelay s t = some r) (he : r.endPending = none) : NotEnding t s := fun q hq => by
  cases hr.symm.trans hq; exact he

theorem notEnding_quiet (t : Tag) : Quiet (NotEnding t) where
  stack _ _ _ _ hs := hs
  stackRecs _ _ _ hs := hs
  placeWait _ _ hs := hs
  standby _ _ _ hs := hs
  outq _ _ hs := hs
  robots _ _ _ hs := hs
  relays s g hg hs r hr := by
    rw [getRelay_mapRelays s g fun r => (hg r).tag] at hr
    obtain ⟨q, hq, rfl⟩ := Option.map_eq_some_iff.mp hr
    rw [(hg q).endPending, hs q hq]

theorem getRelay_notify (s : State) (n : Notice) (t : Tag) : getRelay (notify n s) t = getRelay s t := by
  unfold getRelay; rw [notify_relays]

theorem getRelay_endRelaySlot (s : State) (slot : Nat) (t : Tag) (b : BinId) (o : Outcome) (t' : Tag) :
    getRelay (endRelaySlot slot t b o s) t' = getRelay s t' :=
  portless_field (getRelay · t') (endRelaySlot_portless s slot t b o) fun _ => rfl

/-- An end that is decided stands until the relay is gone (R63). -/
theorem ending_inner (t : Tag) (code : Code) : Inner (Ending t code) where
  stack _ _ _ _ hs := hs
  stackRecs _ _ _ hs := hs
  placeWait _ _ hs := hs
  standby _ _ _ hs := hs
  outq _ _ hs := hs
  robots _ _ _ hs := hs
  deferred _ _ hs := hs
  relays s g hg hs r hr := by
    rw [getRelay_mapRelays s g fun r => (hg r).tag] at hr
    obtain ⟨q, hq, rfl⟩ := Option.map_eq_some_iff.mp hr
    rw [(hg q).endPending, hs q hq]
  decide s t' r' c hr' he hs r hr := by
    by_cases h : t = t'
    · subst h; exact absurd (he.symm.trans (hs _ hr')) nofun
    · exact hs r ((getRelay_modRelay_other h _).symm.trans hr)
  remove s t' hs r hr := by
    by_cases h : t = t'
    · subst h; rw [getRelay_removeRelay] at hr; cases hr
    · rw [getRelay_removeRelay_other s h] at hr; exact hs r hr
  toTail s t' hs r hr := by rw [getRelay_toTail] at hr; exact hs r hr
  notify s n hs r hr := by rw [getRelay_notify] at hr; exact hs r hr
  endSlot s slot t' b o hs r hr := by rw [getRelay_endRelaySlot] at hr; exact hs r hr

theorem decideEnd_ending (code : Code) (h : NotEnding t s) : Ending t code (decideEnd t code s) := by
  unfold decideEnd
  cases hr : getRelay s t with
  | none => rw [onRelay_none _ hr]; intro r hr'; cases hr.symm.trans hr'
  | some r =>
    rw [onRelay_some _ hr, if_neg (by simp [h r hr])]
    split
    · refine dropRelayWaits_keeps (ending_inner t code).toQuiet t true fun q hq => ?_
      cases (getRelay_modRelay_self hr _).symm.trans hq; rfl
    · intro q hq; rw [getRelay_teardown] at hq; cases hq

/-- An end that is decided while none is pending (R63): the relay is gone, or its end is pending with this outcome. -/
theorem endRelay_ending (code : Code) (h : NotEnding t s) : Ending t code (endRelay t code s) :=
  settle_keeps (ending_inner t code) t (decideEnd_ending code h)

theorem actDeferred_ending (h : Ending t code s) : Ending t code (endBus (actDeferred s)) :=
  actDeferred_keeps (ending_inner t code) h

theorem settle_of_none (hr : getRelay s t = some r) (he : r.endPending = none) : settle t s = s := by
  unfold settle; rw [onRelay_some _ hr, he]

theorem drawStandby_of_empty (hr : getRelay s t = some r) (hq : getQueue s r.takeDistrict = []) :
    drawStandby t s = s := by
  unfold drawStandby; rw [onRelay_some _ hr]
  split <;> [rfl; rw [hq]]

/-! ## Matched reports -/

theorem matched_of {c : Robot} {p : Step} {seq : Byte} {rep : Report} (hf : c.state ≠ .faulted) (hp : c.step = some p)
    (hs : p.seq = seq) (hfit : Report.fits rep p.kind = true) : matched c seq rep = true := by
  simp [matched, hf, hp, hs, hfit]

theorem fits_refused (k : StepKind) : Report.fits .refused k = true := by cases k <;> rfl

/-- The state in which a frame reaches its block: the link is UP. -/
def heard (bus : Bus) (s : State) : State := linkHears { beginBus bus s with rx := [] }

@[simp] theorem heard_relays : (heard bus s).relays = s.relays := by
  unfold heard linkHears linkComesUp; split <;> [rfl; exact notify_relays ..]
@[simp] theorem heard_robots : (heard bus s).robots = s.robots := by
  unfold heard linkHears linkComesUp; split <;> [rfl; exact notify_robots ..]
@[simp] theorem heard_stackRecs : (heard bus s).stackRecs = s.stackRecs := by
  unfold heard linkHears linkComesUp; split <;> [rfl; exact notify_stackRecs ..]
@[simp] theorem heard_standby : (heard bus s).standby = s.standby := by
  unfold heard linkHears linkComesUp; split <;> [rfl; exact notify_standby ..]
@[simp] theorem heard_deferred : (heard bus s).deferred = s.deferred := by
  unfold heard linkHears linkComesUp; split <;> [rfl; exact notify_deferred ..]
@[simp] theorem heard_tuning : (heard bus s).tuning = s.tuning := by
  unfold heard linkHears linkComesUp; split <;> [rfl; exact notify_tuning ..]

/-- The cell that a report writes (R144 step 2). -/
def Report.cellAfter (rep : Report) (cell : Option (Nat × Nat)) : Option (Nat × Nat) :=
  match rep with
  | .arrived x y => some (x.toNat, y.toNat)
  | .refused | .setDone _ | .liftDone _ _ => cell

/-- The context of a robot whose report has closed its step (R144). -/
def Robot.reported (rep : Report) (c : Robot) : Robot :=
  { c with step := none, state := .lent, cell := Report.cellAfter rep c.cell }

/-- The state in which a matched report reaches its side: the step is closed and the cell written (R144). -/
def atSide (bus : Bus) (tag : Tag) (robot : Nat) (rep : Report) (s : State) : State :=
  closeSide tag robot (writeCell robot rep (closeStep robot (heard bus s)))

section
variable (bus) (s) (tag : Tag) (robot : Nat) (rep : Report)

theorem writeCell_robotless : ({ writeCell robot rep s with robots := [] } : State) = { s with robots := [] } := by
  cases rep <;> rfl

@[simp] theorem writeCell_relays : (writeCell robot rep s).relays = s.relays := by cases rep <;> rfl
@[simp] theorem writeCell_stackRecs : (writeCell robot rep s).stackRecs = s.stackRecs := by cases rep <;> rfl
@[simp] theorem atSide_stackRecs : (atSide bus tag robot rep s).stackRecs = s.stackRecs :=
  (writeCell_stackRecs ..).trans heard_stackRecs
@[simp] theorem atSide_standby : (atSide bus tag robot rep s).standby = s.standby :=
  (congrArg State.standby (writeCell_robotless _ robot rep)).trans heard_standby
@[simp] theorem atSide_deferred : (atSide bus tag robot rep s).deferred = s.deferred :=
  (congrArg State.deferred (writeCell_robotless _ robot rep)).trans heard_deferred
@[simp] theorem atSide_tuning : (atSide bus tag robot rep s).tuning = s.tuning :=
  (congrArg State.tuning (writeCell_robotless _ robot rep)).trans heard_tuning

end

/-- A report changes the context of its robot alone (R144). -/
theorem getRobot_atSide (bus : Bus) (tag : Tag) (robot : Nat) (rep : Report) (s : State) (x : Nat) :
    getRobot (atSide bus tag robot rep s) x = (getRobot s x).map fun c => if x = robot then c.reported rep else c := by
  have hh : getRobot (heard bus s) x = getRobot s x := by unfold getRobot; rw [heard_robots]
  have hclose : getRobot (closeStep robot (heard bus s)) x =
      (getRobot s x).map fun c => if x = robot then { c with step := none, state := .lent } else c := by
    rw [← hh]; exact getRobot_modRobot _ _ _ _ fun _ => rfl
  have hcell : getRobot (writeCell robot rep (closeStep robot (heard bus s))) x =
      (getRobot (closeStep robot (heard bus s)) x).map fun c =>
        if x = robot then { c with cell := Report.cellAfter rep c.cell } else c := by
    cases rep with
    | arrived a b => exact getRobot_modRobot _ _ _ _ fun _ => rfl
    | refused | setDone _ | liftDone _ _ => simp [writeCell, Report.cellAfter]
  refine hcell.trans ?_
  rw [hclose, Option.map_map]
  refine congrArg (Option.map · _) (funext fun c => ?_)
  by_cases h : x = robot <;> simp [h, Robot.reported]

/-- What the close of a side's step leaves of its relay's record (R43). -/
def Relay.closed (robot : Nat) (r : Relay) : Relay :=
  if r.give.robot = some robot then { r with give := { r.give with stepStack := none, timer := none } }
  else if r.take.robot = some robot then { r with take := { r.take with stepStack := none, timer := none } }
  else r

theorem Relay.closed_sameOrder (robot : Nat) (r : Relay) : Relay.SameOrder r (r.closed robot) := by
  unfold Relay.closed; split <;> (try split) <;> constructor <;> rfl

theorem Relay.closed_give {robot : Nat} (h : r.give.robot = some robot) :
    r.closed robot = { r with give := { r.give with stepStack := none, timer := none } } := if_pos h

theorem Relay.closed_take {robot : Nat} (hg : r.give.robot ≠ some robot) (h : r.take.robot = some robot) :
    r.closed robot = { r with take := { r.take with stepStack := none, timer := none } } :=
  (if_neg hg).trans (if_pos h)

theorem getRelay_closeSide (hr : getRelay s t = some r) (robot : Nat) :
    getRelay (closeSide t robot s) t = some (r.closed robot) :=
  (getRelay_modRelay _ _ _ (Relay.closed robot) fun r => (r.closed_sameOrder robot).tag).trans (by simp [hr])

/-- A robot's report matches its open step, and the robot is lent to a relay. -/
structure Serves (s : State) (robot : Nat) (seq : Byte) (rep : Report) (c : Robot) (t : Tag) (r : Relay) : Prop where
  robot : getRobot s robot = some c
  matched : matched c seq rep = true
  lent : c.lentTo = .relay t
  relay : getRelay s t = some r

variable {robot seq : Byte} {rep : Report} {c : Robot} {i : Nat}

theorem getRelay_atSide (hr : getRelay s t = some r) (bus : Bus) (robot : Nat) (rep : Report) :
    getRelay (atSide bus t robot rep s) t = some (r.closed robot) := by
  refine getRelay_closeSide ?_ robot
  rw [← hr]; unfold getRelay
  rw [writeCell_relays]; exact congrArg (List.find? _) heard_relays

theorem oneFrame_of_serves (h : Serves s robot.toNat seq rep c t r) (hb : bus.reset = none) :
    oneFrame (.report robot seq rep) bus s = .next (endBus (actDeferred (settle t (sideReport t c rep
      (writeCell robot.toNat rep (closeStep robot.toNat (heard bus s))))))) := by
  have hc : getRobot (heard bus s) robot.toNat = some c := by rw [← h.robot]; unfold getRobot; rw [heard_robots]
  rw [oneFrame_eq _ hb]
  change Host.Outcome.next (endBus (applyReport robot.toNat seq rep (heard bus s))) = _
  rw [applyReport, hc]
  dsimp only
  rw [if_pos h.matched, h.lent]

/-- A giver's report reaches the give side (R144 step 3). -/
theorem oneFrame_give (h : Serves s robot.toNat seq rep c t r) (hb : bus.reset = none)
    (hg : r.give.robot = some robot.toNat) (hi : r.give.stepStack = some i) :
    oneFrame (.report robot seq rep) bus s = .next (endBus (actDeferred (settle t
      (giveReport t r.give.state i robot.toNat rep (atSide bus t robot.toNat rep s))))) := by
  have hr : getRelay (writeCell robot.toNat rep (closeStep robot.toNat (heard bus s))) t = some r := by
    rw [← h.relay]; unfold getRelay
    rw [writeCell_relays]; exact congrArg (List.find? _) heard_relays
  rw [oneFrame_of_serves h hb, sideReport, onRelay_some _ hr, getRobot_id h.robot, if_pos hg, hi]
  rfl

/-- A taker's report reaches the take side (R144 step 3). -/
theorem oneFrame_take (h : Serves s robot.toNat seq rep c t r) (hb : bus.reset = none)
    (hg : r.give.robot ≠ some robot.toNat) (ht : r.take.robot = some robot.toNat) (hi : r.take.stepStack = some i) :
    oneFrame (.report robot seq rep) bus s = .next (endBus (actDeferred (settle t
      (takeReport t r.take.state i c rep (atSide bus t robot.toNat rep s))))) := by
  have hr : getRelay (writeCell robot.toNat rep (closeStep robot.toNat (heard bus s))) t = some r := by
    rw [← h.relay]; unfold getRelay
    rw [writeCell_relays]; exact congrArg (List.find? _) heard_relays
  rw [oneFrame_of_serves h hb, sideReport, onRelay_some _ hr, getRobot_id h.robot, if_neg hg, if_pos ht, hi]
  rfl

end Sys2Proof.Machine

/-!
SUPPORT. The limits of the step timers, the exposure expiry and a robot's fault (R59 to R61, R109 to R111, R126, R127).
-/

namespace Sys2Proof.Machine

variable {s : State} {t : Tag} {r : Relay} {code : Code} {bus : Bus} {robot i : Nat} {c : Robot}

/-! ## Taking a limit -/

/-- A command during which no reset arrives leaves what its rule leaves (R173). -/
theorem withBus_next {f : State → State} {u : State} (hb : bus.reset = none) (h : f (beginBus bus s) = u) :
    withBus bus f s = .next (endBus u) := h ▸ withBus_of_no_reset s hb f

theorem limitArisen_of_due (hr : getRelay s t = some r) {side : Side} {m : Timer} (hm : r.timer side = some m)
    (hd : m.limitDue = true) : limitArisen s t side m.phase = true := by
  simp [limitArisen, hr, hm, hd]

/-- A limit that has arisen is taken, and its rule acts (R121). -/
theorem takeLimit_of_due (hr : getRelay s t = some r) {side : Side} {m : Timer} (hm : r.timer side = some m)
    (hd : m.limitDue = true) {p : Phase} (hp : m.phase = p) (f : State → State) :
    takeLimit t side p f s = actDeferred (f (modTimer t side (fun m => { m with limitDue := false }) s)) := by
  subst hp
  exact if_pos (limitArisen_of_due hr hm hd)

theorem Relay.onTimer_sameOrder (side : Side) (f : Timer → Timer) (r : Relay) : Relay.SameOrder r (r.onTimer side f) := by
  cases side <;> constructor <;> rfl

theorem Relay.onTimer_sideRobot (side side' : Side) (f : Timer → Timer) (r : Relay) :
    (r.onTimer side f).sideRobot side' = r.sideRobot side' := by cases side <;> cases side' <;> rfl

theorem Relay.onTimer_shuffle (side : Side) (f : Timer → Timer) (r : Relay) : (r.onTimer side f).shuffle = r.shuffle := by
  cases side <;> rfl

/-! ## Open steps -/

/-- Whether a step of a relay is open is read from the robots, its sides' robots and state, and the shuffle parts (R93). -/
theorem stepOpen_congr {u : State} {q : Relay} (hrobots : u.robots = s.robots)
    (hshuffles : u.relays.map Relay.shuffle = s.relays.map Relay.shuffle) (htag : q.tag = r.tag)
    (hgive : q.give.robot = r.give.robot) (htake : q.take.robot = r.take.robot) (hstate : q.take.state = r.take.state) :
    stepOpen u q = stepOpen s r := by
  have hrobot : getRobot u = getRobot s := by funext x; unfold getRobot; rw [hrobots]
  have hany (v : State) (w : Tag) : inShuffle v w =
      (v.relays.map Relay.shuffle).any fun h => h.any fun sh => sh.movedRelay == some w := by
    rw [List.any_map]; rfl
  unfold stepOpen sidesOpen robotStepOpen
  rw [hany, hany, hrobot, hshuffles, htag, hgive, htake, hstate]

theorem modRelay_shuffles (t : Tag) (f : Relay → Relay) (hf : ∀ r, (f r).shuffle = r.shuffle) (s : State) :
    (modRelay t f s).relays.map Relay.shuffle = s.relays.map Relay.shuffle := by
  rw [modRelay_relays, List.map_map]
  refine List.map_congr_left fun r _ => ?_
  simp only [Function.comp_apply]
  split <;> [exact hf r; rfl]

theorem stepOpen_onTimer (t : Tag) (side : Side) (f : Timer → Timer) (s : State) (r : Relay) :
    stepOpen (modTimer t side f s) (r.onTimer side f) = stepOpen s r := by
  rw [modTimer_eq]
  refine stepOpen_congr rfl (modRelay_shuffles t _ (Relay.onTimer_shuffle side f) s) (Relay.onTimer_tag side f r) ?_ ?_ ?_ <;>
    cases side <;> rfl

theorem settle_of_some (hr : getRelay s t = some r) (he : r.endPending = some code) :
    settle t s = if stepOpen s r then s else teardown t code s := by
  unfold settle; rw [onRelay_some _ hr, he]

/-- An end decided while a step of the relay is open is pending (R63). -/
theorem decideEnd_of_open (hr : getRelay s t = some r) (he : r.endPending = none) (ho : stepOpen s r = true) :
    decideEnd t code s = dropRelayWaits t true (modRelay t (fun r => { r with endPending := some code }) s) := by
  unfold decideEnd
  rw [onRelay_some _ hr]
  exact (if_neg (by simp [he])).trans (if_pos ho)

/-- An end decided while no step of the relay is open is its teardown (R63). -/
theorem endRelay_of_closed (hr : getRelay s t = some r) (he : r.endPending = none) (ho : stepOpen s r = false) :
    endRelay t code s = teardown t code s := by
  have hd : decideEnd t code s = teardown t code s := by
    unfold decideEnd
    rw [onRelay_some _ hr]
    exact (if_neg (by simp [he])).trans (if_neg (by simp [ho]))
  rw [endRelay, hd]
  exact onRelay_none _ (getRelay_teardown ..)

theorem endRelay_of_open (hr : getRelay s t = some r) (he : r.endPending = none) (ho : stepOpen s r = true) :
    endRelay t code s = dropRelayWaits t true (modRelay t (fun r => { r with endPending := some code }) s) := by
  have hr' : getRelay (dropRelayWaits t true (modRelay t (fun r => { r with endPending := some code }) s)) t =
    some { r with endPending := some code } := getRelay_modRelay_self hr _
  rw [endRelay, decideEnd_of_open hr he ho, settle_of_some hr' rfl]
  have hsh := modRelay_shuffles t (fun r => { r with endPending := some code }) (fun _ => rfl) s
  refine if_pos (Eq.trans ?_ ho)
  exact stepOpen_congr rfl hsh rfl rfl rfl rfl

theorem limitEnds_of (hr : getRelay s t = some r) (he : r.endPending = none) :
    limitEnds t code s = endRelay t code s := by
  unfold limitEnds
  rw [onRelay_some _ hr]
  exact if_neg (by simp [he])

theorem limitEnds_of_ending (hr : getRelay s t = some r) (he : r.endPending ≠ none) : limitEnds t code s = s := by
  unfold limitEnds
  rw [onRelay_some _ hr]
  exact if_pos (Option.isSome_iff_ne_none.mpr he)

/-- What the limit of a waiting phase leaves, by the pending end and the open steps (R59, R63). -/
theorem limitEnds_cases (hr : getRelay s t = some r) (side : Side) (f : Timer → Timer) :
    (r.endPending = none → stepOpen s r = false →
      limitEnds t code (modTimer t side f s) = teardown t code (modTimer t side f s)) ∧
    (r.endPending = none → stepOpen s r = true →
      limitEnds t code (modTimer t side f s) =
        dropRelayWaits t true (modRelay t (fun r => { r with endPending := some code }) (modTimer t side f s))) ∧
    (r.endPending ≠ none → limitEnds t code (modTimer t side f s) = modTimer t side f s) := by
  have hu := getRelay_modTimer hr side f
  have hp := (r.onTimer_sameOrder side f).endPending
  refine ⟨fun he ho => ?_, fun he ho => ?_, fun he => limitEnds_of_ending hu (hp ▸ he)⟩
  · rw [limitEnds_of hu (hp.trans he), endRelay_of_closed hu (hp.trans he) ((stepOpen_onTimer ..).trans ho)]
  · rw [limitEnds_of hu (hp.trans he), endRelay_of_open hu (hp.trans he) ((stepOpen_onTimer ..).trans ho)]

/-! ## Stacks that are SUSPECT -/

/-- A stack is SUSPECT. -/
def IsSuspect (i : Nat) (s : State) : Prop := (getStack s i).state = .suspect

/-- No rule but a declaration and a SEED takes a stack out of SUSPECT (R17). -/
theorem suspect_inner (i : Nat) : Inner (IsSuspect i) := by
  have hsame {k k' : StackRec} (h : StackRec.Same k k') (hk : k.state = .suspect) : k'.state = .suspect := by
    obtain hs | ⟨ha, -⟩ := h.state
    · exact hs.trans hk
    · exact absurd (hk.symm.trans ha) nofun
  constructor
  case toQuiet =>
    constructor
    case stack =>
      intro s j f hf hs
      unfold IsSuspect at hs ⊢
      rw [getStack_modStack]
      split
      case isTrue h => exact hsame (h.1 ▸ hf) hs
      case isFalse => exact hs
    case stackRecs =>
      intro s g hg hs
      have hi : i < s.stackRecs.length := lt_of_declared (by rw [show _ = _ from hs]; decide)
      have he : getStack { s with stackRecs := s.stackRecs.map g } i = g (getStack s i) := by simp [getStack, hi]
      exact (congrArg StackRec.state he).trans (hsame (hg _) hs)
    all_goals intros; assumption
  case notify => exact fun s n hs => (congrArg (StackRec.state) (getStack_of_stackRecs (notify_stackRecs s n) i)).trans hs
  case endSlot =>
    exact fun s slot t b o hs =>
      (portless_field (fun u => (getStack u i).state) (endRelaySlot_portless s slot t b o) fun _ => rfl).trans hs
  all_goals intros; assumption

theorem enterSuspect_suspect (h : i < s.stackRecs.length) (c : Cause) (t : Tag) (x : Nat) (b : BinId) :
    IsSuspect i (enterSuspect i c t x b s) := by
  have hin := suspect_inner i
  unfold enterSuspect
  refine retryPlacement_keeps hin.toQuiet (foldl_keeps (fun _ _ => waitHandBack_keeps hin.toQuiet _ _) _ ?_)
  refine modStack_keeps hin.toQuiet _ _ (foldl_keeps (fun _ _ => handBack_keeps hin _ _) _ ?_)
    (.shrink rfl le_rfl (List.nil_sublist _))
  refine modStack_keeps hin.toQuiet _ _ (hin.notify _ _ ?_) (.shrink rfl (List.length_filter_le ..) (.refl _))
  exact congrArg StackRec.state (getStack_modStack_self _ h)

/-- A suspect cause takes an ACTIVE stack to SUSPECT (R17). -/
theorem suspectCause_suspect (h : (getStack s i).state = .active) (c : Cause) (t : Tag) (x : Nat) (b : BinId) :
    IsSuspect i (suspectCause i c t x b s) := by
  rw [suspectCause, if_pos h]
  exact enterSuspect_suspect (lt_of_declared (by rw [h]; decide)) c t x b

/-- An ACTIVE stack whose holder faults is SUSPECT (R110 step 2). -/
theorem faultRobot_suspect (hc : getRobot s robot = some c) (ha : c.accessHeld = some i)
    (hh : ∃ h, (getStack s i).holder = some h) (hs : (getStack s i).state = .active) (p : Option Phase) :
    IsSuspect i (faultRobot robot p s) := by
  obtain ⟨h, hh⟩ := hh
  have hin := suspect_inner i
  have hi : i < s.stackRecs.length := lt_of_declared (by rw [hs]; decide)
  let u := removeStepFrame robot (modRobot robot (fun c => { c with state := .faulted, step := none }) s)
  have hlost : IsSuspect i (loseAccess i robot (faultCause p) u) := by
    have hu : (getStack u i).holder = some h := hh
    have hclear : (getStack (clearAccess i robot u) i).state = .active := by
      exact (congrArg StackRec.state (getStack_modStack_self (s := u) _ hi)).trans hs
    rw [loseAccess, hu]
    exact suspectCause_suspect hclear ..
  unfold faultRobot
  rw [hc]
  dsimp only
  rw [ha]
  refine hin.notify _ _ ?_
  have hw := dropWaits_keeps hin.toQuiet (fun e => e.robot == robot) hlost
  split
  · exact modRobot_keeps hin.toQuiet _ (modQueue_keeps hin.toQuiet _ _ hw)
  · exact hw

theorem faultSide_keeps {P : State → Prop} (h : Inner P) (t : Tag) (x : Nat) (p : Phase) (hs : P s) :
    P (faultSide t x p s) :=
  settle_keeps h t (closeSide_keeps h.toQuiet t x (faultRobot_keeps h x _ hs))

theorem limitFaults_of (hr : getRelay s t = some r) {side : Side} (hx : r.sideRobot side = some robot) (p : Phase) :
    limitFaults t side p code s = faultSide t robot p (decideEnd t code s) := by
  unfold limitFaults; rw [onRelay_some _ hr, hx]

theorem limitFaults_ending (hr : getRelay s t = some r) {side : Side} (hx : r.sideRobot side = some robot)
    (he : r.endPending = none) (p : Phase) : Ending t code (limitFaults t side p code s) := by
  rw [limitFaults_of hr hx]
  exact faultSide_keeps (ending_inner t code) t robot p (decideEnd_ending code (notEnding_of hr he))

theorem stepOpen_of_side (hc : getRobot s robot = some c) (ho : c.step ≠ none) {side : Side}
    (hx : r.sideRobot side = some robot) : stepOpen s r = true := by
  have h : robotStepOpen s (some robot) = true := by simp [robotStepOpen, hc, Option.isSome_iff_ne_none.mpr ho]
  cases side with
  | give => simp [stepOpen, sidesOpen, show r.give.robot = some robot from hx, h]
  | take => simp [stepOpen, sidesOpen, show r.take.robot = some robot from hx, h]

/-- The wait lists are all that an end that is pending changes of the stacks (R63). -/
theorem getStack_dropRelayWaits (t : Tag) (b : Bool) (s : State) (i : Nat) :
    ∃ w, getStack (dropRelayWaits t b s) i = { getStack s i with waits := w } := by
  by_cases h : i < s.stackRecs.length
  · exact ⟨_, by simp [getStack, dropRelayWaits, dropWaits, h]; rfl⟩
  · exact ⟨_, by simp [getStack, dropRelayWaits, dropWaits, h]; rfl⟩

/-- A giver or lifting taker with an open step that holds access to an ACTIVE stack leaves it SUSPECT by its limit (R60). -/
theorem limitFaults_suspect (hr : getRelay s t = some r) {side : Side} (hx : r.sideRobot side = some robot)
    (he : r.endPending = none) (hc : getRobot s robot = some c) (ho : c.step ≠ none) (ha : c.accessHeld = some i)
    (hh : ∃ h, (getStack s i).holder = some h) (hs : (getStack s i).state = .active) (p : Phase) :
    IsSuspect i (limitFaults t side p code s) := by
  rw [limitFaults_of hr hx, decideEnd_of_open hr he (stepOpen_of_side hc ho hx)]
  obtain ⟨w, hw⟩ := getStack_dropRelayWaits t true (modRelay t (fun r => { r with endPending := some code }) s) i
  refine settle_keeps (suspect_inner i) t (closeSide_keeps (suspect_inner i).toQuiet t robot ?_)
  refine faultRobot_suspect (c := c) (by exact hc) ha ?_ ?_ _
  · rw [hw]; exact hh
  · rw [hw]; exact hs

/-! ## Faults of robots that hold no access -/

/-- The relay that a robot is lent to, as its ROBOT_FAULT notice names it. -/
def Robot.relayTag (c : Robot) : Tag :=
  match c.lentTo with
  | .relay t => t
  | .standby | .none => 0#32

/-- What the entry into FAULTED of a robot without access leaves before its notice (R110). -/
def stoodDown (robot : Nat) (c : Robot) (s : State) : State :=
  { s with
    robots := s.robots.map fun d =>
      if d.id = robot then
        { d with state := .faulted, step := none, lentTo := if c.lentTo = .standby then .none else d.lentTo }
      else d
    outq := (if s.tx.isSome then s.outq.take 1 else []) ++ (unsentFrames s).filter fun f => !(f.isStep && f.robot == robot)
    stackRecs := s.stackRecs.map fun k => { k with waits := k.waits.filter fun e => !(e.robot == robot) }
    standby := if c.lentTo = .standby then s.standby.modify (c.district - 1) (fun q => q.erase robot) else s.standby }

theorem faultRobot_eq (hc : getRobot s robot = some c) (ha : c.accessHeld = none) (p : Option Phase) :
    faultRobot robot p s =
      notify (robotFaultNotice s.tick c.relayTag robot none (c.heldBin.getD 0#32) p) (stoodDown robot c s) := by
  unfold faultRobot
  rw [hc]
  dsimp only
  rw [ha]
  cases hl : c.lentTo with
  | relay t =>
    simp only [stoodDown, Robot.relayTag, hl, reduceCtorEq, if_false]
    rfl
  | none =>
    simp only [stoodDown, Robot.relayTag, hl, reduceCtorEq, if_false]
    rfl
  | standby =>
    simp only [stoodDown, Robot.relayTag, hl, if_true]
    refine congrArg (notify _) ?_
    unfold modRobot modQueue dropWaits removeStepFrame removeUnsent
    simp only [List.map_map, Function.comp_def]
    congr 1
    refine List.map_congr_left fun d _ => ?_
    by_cases h : d.id = robot <;> simp [h]

theorem getRobot_stoodDown (hc : getRobot s robot = some c) :
    getRobot (stoodDown robot c s) robot = some { c with
      state := .faulted, step := none, lentTo := if c.lentTo = .standby then .none else c.lentTo } := by
  have h := find_map_id s.robots (fun d => if d.id = robot then
    { d with state := .faulted, step := none, lentTo := if c.lentTo = .standby then .none else d.lentTo } else d)
    (fun d => by split <;> rfl) robot
  exact h.trans (by rw [show s.robots.find? (fun d => d.id == robot) = some c from hc]; simp [getRobot_id hc])

/-! ## The taker that leaves its side -/

/-- A relay whose take side has lost its taker (R54, R61). -/
def Relay.unassigned (tn : Tuning) (r : Relay) : Relay :=
  { r with
    take := { state := .unassigned, robot := none, stepStack := none, timer := startTimer tn r.timingSet (some .rest) }
    takers := r.takers.set (r.hop - 1) none }

theorem getRelay_unassignTake (hr : getRelay s t = some r) :
    getRelay (unassignTake t s) t = some (r.unassigned s.tuning) := by
  unfold unassignTake
  rw [onRelay_some _ hr]
  exact getRelay_modRelay_self (getRelay_modRelay_self (getRelay_modRelay_self hr _) _) _

@[simp] theorem unassignTake_robots : (unassignTake t s).robots = s.robots := by
  unfold unassignTake onRelay; split <;> rfl
@[simp] theorem unassignTake_standby : (unassignTake t s).standby = s.standby := by
  unfold unassignTake onRelay; split <;> rfl
@[simp] theorem unassignTake_deferred : (unassignTake t s).deferred = s.deferred := by
  unfold unassignTake onRelay; split <;> rfl

theorem takeApproachOver_eq (hr : getRelay s t = some r) (hx : r.take.robot = some robot) :
    takeApproachOver t s =
      settle t (drawStandby t (unbind robot (faultRobot robot (some .takeApproach) (unassignTake t s)))) := by
  unfold takeApproachOver; rw [onRelay_some _ hr, hx]

end Sys2Proof.Machine

namespace Sys2Proof

open Machine

/-- Settles O29: the entry into FAULTED of a robot without access is one update and a notice; a giver's end stands. -/
theorem faultReportActs : Obligations.FaultReportActs := by
  refine ⟨fun s robot bus c hb hl hd hc hf hrel ha => ?_, fun s robot bus c tag r hb hl hc hf hrel ha hr hg hdone he => ?_⟩
  · let u : State := { beginBus bus s with rx := [] }
    have hu : applyFault robot.toNat u =
        notify (robotFaultNotice s.tick 0#32 robot.toNat none (c.heldBin.getD 0#32) none) (stoodDown robot.toNat c u) := by
      have htag : c.relayTag = 0#32 := by
        unfold Robot.relayTag
        split <;> [exact absurd ‹_› (hrel _); rfl; rfl]
      unfold applyFault
      rw [show getRobot u robot.toNat = some c from hc]
      dsimp only
      rw [if_neg hf, faultRobot_eq (s := u) hc ha, htag]
      split <;> [exact absurd ‹_› (hrel _); rfl; rfl]
    refine (oneFrame_eq _ hb s).trans ?_
    rw [takeFrame_fault _ (by exact hl), hu, actDeferred_nil]
    · rfl
    · rw [notify_deferred]; exact hd
  · let u : State := { beginBus bus s with rx := [] }
    refine ⟨_, (oneFrame_eq _ hb s).trans (by rw [takeFrame_fault _ (by exact hl)]), actDeferred_ending ?_⟩
    have hr' : getRelay (faultRobot robot.toNat none u) tag = some r := by
      rw [faultRobot_eq (s := u) hc ha, getRelay_notify]; exact hr
    have hu : applyFault robot.toNat u = faultOnRelay tag robot.toNat (faultRobot robot.toNat none u) := by
      unfold applyFault
      rw [show getRobot u robot.toNat = some c from hc]
      dsimp only
      rw [if_neg hf, hrel]
    rw [show applyFault robot.toNat _ = _ from hu, faultOnRelay, onRelay_some _ hr']
    rw [if_pos hg, if_neg hdone]
    refine endRelay_ending _ ?_
    split <;> [exact closeSide_keeps (notEnding_quiet tag) tag _ (notEnding_of hr' he); exact notEnding_of hr' he]

/-- Settles O36: the side loses its taker, which is FAULTED and unbound; an empty queue gives no other. -/
theorem takeApproachLimitDropsTaker : Obligations.TakeApproachLimitDropsTaker := by
  intro s tag bus r m robot c hb hr hm hd hp hx hc hl ha he hq hdef
  let u : State := modTimer tag .take (fun m => { m with limitDue := false }) (beginBus bus s)
  let v : State := unassignTake tag u
  have hu : getRelay u tag = some (r.onTimer .take fun m => { m with limitDue := false }) :=
    getRelay_modTimer (s := beginBus bus s) hr _ _
  have hv := getRelay_unassignTake hu
  have hvrobots : v.robots = s.robots := unassignTake_robots
  have hvc : getRobot v robot = some c := by unfold getRobot; rw [hvrobots]; exact hc
  let w : State := unbind robot (faultRobot robot (some .takeApproach) v)
  have hw : faultRobot robot (some .takeApproach) v =
      notify (robotFaultNotice v.tick c.relayTag robot none (c.heldBin.getD 0#32) (some .takeApproach))
        (stoodDown robot c v) := faultRobot_eq hvc ha _
  have hwr : getRelay w tag = some ((r.onTimer .take fun m => { m with limitDue := false }).unassigned u.tuning) := by
    change getRelay (faultRobot robot (some .takeApproach) v) tag = _
    rw [hw, getRelay_notify]; exact hv
  have hwq : getQueue w r.takeDistrict = [] := by
    have : w.standby = s.standby := by
      change (faultRobot robot (some .takeApproach) v).standby = _
      rw [hw, notify_standby]
      exact (if_neg (by simp [hl])).trans unassignTake_standby
    unfold getQueue; rw [this]; exact hq
  have hend : settle tag (drawStandby tag w) = w := by
    rw [drawStandby_of_empty hwr hwq, settle_of_none hwr he]
  refine ⟨endBus w, { c with state := .faulted, step := none, lentTo := .none, heldBin := none }, _, ?_, ?_, rfl, rfl,
    rfl, rfl, hwr, rfl, rfl, rfl, rfl, he⟩
  · refine withBus_next hb ?_
    rw [takeLimit_of_due (s := beginBus bus s) (side := .take) hr hm hd hp, takeApproachOver_eq hu hx]
    rw [show settle tag _ = w from hend, actDeferred_nil]
    change (faultRobot robot (some .takeApproach) v).deferred = _
    rw [hw, notify_deferred]
    exact unassignTake_deferred.trans hdef
  · have hx : getRobot (faultRobot robot (some .takeApproach) v) robot =
        some { c with state := .faulted, step := none, lentTo := if c.lentTo = .standby then .none else c.lentTo } := by
      rw [hw]; unfold getRobot; rw [notify_robots]; exact getRobot_stoodDown hvc
    exact getRobot_modRobot_self hx _

/-- Settles O37: the clock expires, and with ABORT_ON_EXPOSURE the end that is decided stands. -/
theorem exposureExpiryActs : Obligations.ExposureExpiryActs := by
  have hcmd {s : State} {tag : Tag} {r : Relay} {k : Clock} {bus : Bus} (hb : bus.reset = none)
      (hr : getRelay s tag = some r) (hk : r.clock = some k) (hd : k.due = true) (he : k.expired = false) :
      execExposureExpiry tag bus s =
        .next (endBus (actDeferred (expiryActs tag (expireClock tag (beginBus bus s))))) := by
    have hr' : getRelay (beginBus bus s) tag = some r := hr
    exact withBus_next hb (if_pos (by simp [clockDue, hr', hk, hd, he]))
  have hexpired {s : State} {tag : Tag} {r : Relay} (bus : Bus) (hr : getRelay s tag = some r) :
      getRelay (expireClock tag (beginBus bus s)) tag = some { r with
        clock := some { used := r.budget, opened := none, expired := true, due := false }
        flags := { r.flags with exposed := true } } := by
    rw [expireClock_eq (s := beginBus bus s) hr, getRelay_notify]
    exact getRelay_modRelay_self (s := beginBus bus s) hr _
  refine ⟨fun s tag bus r k hb hr hk hd he ha hdef => ?_, fun s tag bus r k hb hr hk hd he ha hend => ?_⟩
  · refine (hcmd hb hr hk hd he).trans ?_
    have hact : expiryActs tag (expireClock tag (beginBus bus s)) = expireClock tag (beginBus bus s) := by
      rw [expiryActs, onRelay_some _ (hexpired bus hr)]; exact if_neg (by simp [ha])
    rw [hact, expireClock_eq (s := beginBus bus s) hr, actDeferred_nil]
    · rfl
    · rw [notify_deferred]; exact hdef
  · refine ⟨_, hcmd hb hr hk hd he, actDeferred_ending ?_⟩
    rw [expiryActs, onRelay_some _ (hexpired bus hr)]
    rw [if_pos (by exact ha)]
    exact endRelay_ending _ (notEnding_of (hexpired bus hr) hend)

end Sys2Proof

/-!
SUPPORT. The reports of a hop's sides (R45, R48, R50, R53, R54): the cells and bins that stand, the joins and the grants that
follow, and the steps that are opened.
-/

namespace Sys2Proof.Machine

variable {P : State → Prop} {s : State} {t : Tag} {r : Relay} {bus : Bus} {i : Nat} {e : Access}

/-! ## What stands -/

/-- The last known cell of every declared robot. -/
def CellsAre (f : Nat → Option (Option (Nat × Nat))) (s : State) : Prop := ∀ x, (getRobot s x).map Robot.cell = f x

theorem cells_moves (f : Nat → Option (Option (Nat × Nat))) : Moves (CellsAre f) := by
  constructor
  case toInner =>
    constructor
    case toQuiet =>
      constructor
      case robots =>
        intro s g hg hs x
        refine Eq.trans ?_ (hs x)
        have h : getRobot { s with robots := s.robots.map g } x = (getRobot s x).map g :=
          find_map_id _ _ (fun c => (hg c).id) x
        rw [h, Option.map_map]
        exact Option.map_congr fun c _ => (hg c).cell
      all_goals intros; assumption
    case notify => intro s n hs x; refine Eq.trans ?_ (hs x); unfold getRobot; rw [notify_robots]
    case endSlot =>
      exact fun s slot t b o hs x =>
        (portless_field (fun u => (getRobot u x).map Robot.cell) (endRelaySlot_portless s slot t b o) fun _ => rfl).trans (hs x)
    all_goals intros; assumption
  case anyStack => intros; assumption

/-- The bins of every stack, bottom to top. -/
def HasBins (f : Nat → List BinId) (s : State) : Prop := ∀ i, binsOf s i = f i

theorem getStack_mapStacks (s : State) (g : StackRec → StackRec) (h : i < s.stackRecs.length) :
    getStack { s with stackRecs := s.stackRecs.map g } i = g (getStack s i) := by simp [getStack, h]

theorem getStack_out (h : ¬i < s.stackRecs.length) : getStack s i = {} := by
  simp [getStack, List.getElem?_eq_none (Nat.le_of_not_lt h)]

theorem hasBins_inner (f : Nat → List BinId) : Inner (HasBins f) := by
  constructor
  case toQuiet =>
    constructor
    case stack =>
      intro s j g hg hs i
      refine Eq.trans ?_ (hs i)
      unfold binsOf
      rw [getStack_modStack]
      split
      case isTrue h => obtain ⟨rfl, -⟩ := h; exact hg.bins
      case isFalse => rfl
    case stackRecs =>
      intro s g hg hs i
      refine Eq.trans ?_ (hs i)
      unfold binsOf
      by_cases h : i < s.stackRecs.length
      · rw [getStack_mapStacks s g h]; exact (hg _).bins
      · rw [getStack_out h, getStack_out (by simpa using h)]
    all_goals intros; assumption
  case notify => intro s n hs i; refine Eq.trans ?_ (hs i); unfold binsOf; rw [getStack_of_stackRecs (notify_stackRecs s n)]
  case endSlot =>
    exact fun s slot t b o hs i =>
      (portless_field (fun u => binsOf u i) (endRelaySlot_portless s slot t b o) fun _ => rfl).trans (hs i)
  all_goals intros; assumption

/-- The record of a relay is held, with its order fields and its pending end. -/
def Listed (r : Relay) (s : State) : Prop := ∃ q, getRelay s r.tag = some q ∧ Relay.SameOrder r q

theorem Relay.SameOrder.trans {a b c : Relay} (h : Relay.SameOrder a b) (h' : Relay.SameOrder b c) : Relay.SameOrder a c where
  tag := h'.tag.trans h.tag
  slot := h'.slot.trans h.slot
  bin := h'.bin.trans h.bin
  cls := h'.cls.trans h.cls
  budget := h'.budget.trans h.budget
  due := h'.due.trans h.due
  timingSet := h'.timingSet.trans h.timingSet
  strictLoad := h'.strictLoad.trans h.strictLoad
  allowShuffle := h'.allowShuffle.trans h.allowShuffle
  abortOnExposure := h'.abortOnExposure.trans h.abortOnExposure
  path := h'.path.trans h.path
  origin := h'.origin.trans h.origin
  endPending := h'.endPending.trans h.endPending

theorem listed_of (hr : getRelay s t = some r) : Listed r s := ⟨r, getRelay_tag hr ▸ hr, .refl r⟩

theorem listed_quiet (r : Relay) : Quiet (Listed r) where
  stack _ _ _ _ hs := hs
  stackRecs _ _ _ hs := hs
  placeWait _ _ hs := hs
  standby _ _ _ hs := hs
  outq _ _ hs := hs
  robots _ _ _ hs := hs
  relays s g hg hs := by
    obtain ⟨q, hq, h⟩ := hs
    exact ⟨g q, (getRelay_mapRelays s g (fun r => (hg r).tag) _).trans (congrArg (Option.map g) hq), h.trans (hg q)⟩

/-- No rule of access and placement hands an expiry over (R126). -/
theorem deferred_quiet (l : List Tag) : Quiet fun u => u.deferred = l := by constructor <;> (intros; assumption)

/-- A side's rule that leaves its relay listed with no pending end is all that the report does (R63, R126). -/
theorem settled {u : State} (hl : Listed r u) (ht : r.tag = t) (he : r.endPending = none) (hd : u.deferred = []) :
    actDeferred (settle t u) = u := by
  obtain ⟨q, hq, hq'⟩ := hl
  rw [settle_of_none (ht ▸ hq) (hq'.endPending.trans he), actDeferred_nil hd]

/-! ## Completed moves -/

section
variable (h : Inner P)
include h

/-- What follows the move of a set-down keeps what the move leaves (R8). -/
theorem recordSet_of_moved (x n : Nat) (b : BinId) (t : Tag)
    (hs : P (modStack i (fun k => { k with
      pend := k.pend.eraseP (PendEntry.isFor b), resting := k.resting ++ [restEntryOf k b] }) s)) :
    P (recordSet i x n b t s) :=
  reportAndHandOn_keeps h.toQuiet _ (levelCheck_keeps h _ _ _ _ _ _ (clearAccess_keeps h.toQuiet _ _
    (modRobot_keeps h.toQuiet _ hs)))

/-- What follows the move of a lift keeps what the move leaves (R9). -/
theorem recordLift_of_moved (x n : Nat) (t : Tag) (top : RestEntry)
    (hs : P (modStack i (fun k => { k with resting := k.resting.dropLast }) s)) : P (recordLift i x n t top s) := by
  have h1 : P (modRobot x (fun c => { c with heldBin := some top.bin })
      (modStack i (fun k => { k with resting := k.resting.dropLast }) s)) := modRobot_keeps h.toQuiet _ hs
  exact levelCheck_keeps h _ _ _ _ _ _ (clearAccess_keeps h.toQuiet _ _
    (onMoved_keeps h1 fun _ => modRelay_keeps h.toQuiet _ (fun _ => by constructor <;> rfl) h1))

theorem giveSetDone_of_recorded (x n : Nat) (hr : getRelay s t = some r) (hd : setsDown (getStack s i) x r.bin = true)
    (hs : P (recordSet i x n r.bin t s)) : P (giveSetDone t i x n s) := by
  unfold giveSetDone
  rw [onRelay_some _ hr, if_pos hd]
  have h1 := enterGive_keeps h.toQuiet t .done (situationChanged_keeps h t false hs)
  refine onRelay_keeps h1 fun q _ => ?_
  split
  · exact h1
  · have h2 := releaseGiver_keeps h t x h1
    dsimp only; split <;> [exact takeJoin_keeps h.toQuiet _ _ _ h2; exact h2]

theorem setOnTarget_of_recorded (p : Tag) (sh : Shuffle) (x n : Nat) (hs : P (recordSet i x n sh.movedBin p s)) :
    P (setOnTarget p i sh x n s) := by
  refine returnShuffler_keeps h _ ?_
  have h2 : ∀ m, P (dropHold sh.source x (notify m (onMoved sh.movedRelay (fun q s =>
      situationChanged q false (modRelay q (fun r => { r with carried := false, binding := some i }) s))
        (recordSet i x n sh.movedBin p s)))) := fun m =>
    dropHold_keeps h.toQuiet _ _ (h.notify _ _ (onMoved_keeps hs fun _ =>
      situationChanged_keeps h _ _ (modRelay_keeps h.toQuiet _ (fun _ => by constructor <;> rfl) hs)))
  exact onMoved_keeps (h2 _) fun _ => moveTaker_keeps h.toQuiet _ _ _ (settleMoved_keeps h _ (h2 _))

theorem setOnSource_of_recorded (p : Tag) (sh : Shuffle) (x n : Nat) (hs : P (recordSet i x n sh.movedBin p s)) :
    P (setOnSource p i sh x n s) := by
  have h2 := onMoved_keeps (q := sh.movedRelay) (f := fun q s => situationChanged q false (setCarried (some q) false s))
    hs fun _ => situationChanged_keeps h _ _ (setCarried_keeps h.toQuiet _ _ hs)
  exact returnShuffler_keeps h _ (onMoved_keeps h2 fun _ => resumeTaker_keeps h.toQuiet _ _ (settleMoved_keeps h _ h2))

theorem digSetDone_of_recorded (n : Nat) {sh : Shuffle} {x : Nat} (hr : getRelay s t = some r)
    (hsh : r.shuffle = some sh) (hx : r.take.robot = some x) (hd : setsDown (getStack s i) x sh.movedBin = true)
    (hs : P (recordSet i x n sh.movedBin t s)) : P (digSetDone t i n s) := by
  unfold digSetDone onShuffle
  rw [onRelay_some _ hr, hsh, hx]
  dsimp only
  rw [if_pos hd]
  split <;> [exact setOnSource_of_recorded h _ _ _ _ hs; exact setOnTarget_of_recorded h _ _ _ _ hs]

theorem takeLiftDone_of_moved (c : Robot) (n l : Nat) {x : RestEntry} (hx : (getStack s i).top = some x)
    (hh : holds (getStack s i) c.id false = true)
    (hs : P (modStack i (fun k => { k with resting := k.resting.dropLast }) s)) : P (takeLiftDone t i c n l s) := by
  unfold takeLiftDone
  rw [hx]
  dsimp only
  rw [if_pos hh]
  exact passOnIfDone_keeps h _ (hopLoad_keeps h _ _ _ _ (situationChanged_keeps h _ _
    (reportAndHandOn_keeps h.toQuiet _ (recordLift_of_moved h _ _ _ _ hs))))

theorem digLiftDone_of_moved (c : Robot) (n l : Nat) {x : RestEntry} (hx : (getStack s i).top = some x)
    (hh : holds (getStack s i) c.id false = true)
    (hs : P (modStack i (fun k => { k with resting := k.resting.dropLast }) s)) : P (digLiftDone t i c n l s) := by
  unfold digLiftDone
  rw [hx]
  dsimp only
  rw [if_pos hh]
  have h1 := recordLift_of_moved h c.id n t x hs
  exact joinSomeTarget_keeps h _ (reportAndHandOn_keeps h.toQuiet _ (onMoved_keeps h1 fun q =>
    shuffleLoad_keeps h.toQuiet _ _ _ (situationChanged_keeps h _ _ (setFlag_keeps h.toQuiet _ _ (setCarried_keeps h.toQuiet _ _ h1)))))

end

theorem holds_lt {x : Nat} {b : Bool} (h : holds (getStack s i) x b = true) : i < s.stackRecs.length := by
  by_contra hi
  rw [getStack_out hi] at h
  cases h

theorem top_of_resting {k : StackRec} (h : k.resting ≠ []) : ∃ x, k.top = some x :=
  ⟨_, List.getLast?_eq_some_getLast h⟩

theorem restEntryOf_bin (k : StackRec) (b : BinId) : (restEntryOf k b).bin = b := by
  unfold restEntryOf; split <;> rfl

/-- The bins after the move of a set-down (R8). -/
theorem hasBins_setDown (h : i < s.stackRecs.length) (b : BinId) (p : List PendEntry → List PendEntry) :
    HasBins (fun j => if j = i then binsOf s i ++ [b] else binsOf s j) (modStack i (fun k => { k with
      pend := p k.pend, resting := k.resting ++ [restEntryOf k b] }) s) := by
  intro j
  unfold binsOf
  rw [getStack_modStack]
  by_cases hj : j = i
  · subst hj; simp [h, restEntryOf_bin]
  · simp [hj, Ne.symm hj]

/-- The bins after the move of a lift (R9). -/
theorem hasBins_lift (s : State) (i : Nat) :
    HasBins (fun j => if j = i then (binsOf s i).dropLast else binsOf s j)
      (modStack i (fun k => { k with resting := k.resting.dropLast }) s) := by
  intro j
  unfold binsOf
  rw [getStack_modStack]
  by_cases hj : j = i
  · subst hj
    by_cases h : j < s.stackRecs.length
    · simp [h, List.map_dropLast]
    · simp [h, getStack_out h]
  · simp [hj, Ne.symm hj]

/-! ## Joins and grants -/

theorem joinAccepted_of_stackRecs {u : State} (h : u.stackRecs = s.stackRecs) (i : Nat) (e : Access) :
    joinAccepted u i e = joinAccepted s i e := by
  unfold joinAccepted; rw [getStack_of_stackRecs h]

/-- A join that is accepted finds the stack ACTIVE for a set-down, ACTIVE or SUSPECT with the bin at rest for a lift. -/
theorem joinAccepted_state (h : joinAccepted s i e = true) :
    (e.purpose.isSet = true → (getStack s i).state = .active) ∧
    (e.purpose.isSet = false → (getStack s i).rests e.bin = true) ∧ i < s.stackRecs.length := by
  simp only [joinAccepted, Bool.and_eq_true] at h
  obtain ⟨-, h⟩ := h
  cases hp : e.purpose.isSet with
  | true =>
    simp only [hp, if_true, Bool.and_eq_true, beq_iff_eq] at h
    exact ⟨fun _ => h.1, nofun, lt_of_declared (by rw [h.1]; decide)⟩
  | false =>
    simp only [hp, Bool.false_eq_true, if_false, Bool.and_eq_true, Bool.or_eq_true, beq_iff_eq] at h
    refine ⟨nofun, fun _ => h.2, lt_of_declared ?_⟩
    obtain h | h := h.1 <;> rw [h] <;> decide

theorem getStack_joinWaits (h : joinAccepted s i e = true) :
    getStack (joinWaits i false e s) i = { getStack s i with waits := (getStack s i).waits ++ [e] } :=
  getStack_modStack_self _ (joinAccepted_state h).2.2

theorem holdsElsewhere_of_free {c : Robot} (hc : getRobot s e.robot = some c) (ha : c.accessHeld = none) :
    holdsElsewhere s i e.robot = false := by simp [holdsElsewhere, hc, ha]

/-- The only entry of a wait list is granted on an ACTIVE stack without a holder: a lift of the top bin, or a set-down where
the stack is not blocked (R14). -/
theorem arbiterPick_single (hh : (getStack s i).holder = none) (ha : (getStack s i).state = .active)
    (hw : (getStack s i).waits = [e]) (he : holdsElsewhere s i e.robot = false)
    (hp : e.purpose.isSet = true ∧ (getStack s i).blocked = false ∨
      e.purpose.isSet = false ∧ (getStack s i).onTop e.bin = true) : arbiterPick s i = some e := by
  rw [arbiterPick_of_open hh ha, hw]
  obtain ⟨hp, hb⟩ | ⟨hp, hb⟩ := hp <;> simp [hp, hb, he]

theorem openStep_relays (x : Nat) (k : StepKind) (j l : Nat) (b : BinId) (s : State) :
    (openStep x k j l b s).relays = s.relays := by unfold openStep; split <;> rfl

/-- The give side that is sent a step (R43). -/
theorem getRelay_giveStep (hr : getRelay s t = some r) (x : Nat) (k : StepKind) (j l : Nat) (b : BinId) (st : GiveState) :
    getRelay (giveStep t x k j l b st s) t = some { r with give := { r.give with
      stepStack := some j, state := st, timer := startTimer s.tuning r.timingSet st.phase } } := by
  have h : getRelay (openStep x k j l b s) t = some r := by rw [← hr]; unfold getRelay; rw [openStep_relays]
  have htn : (openStep x k j l b s).tuning = s.tuning := (congrArg State.tuning (openStep_stepless x k j l b s) :)
  refine (getRelay_modRelay_self (getRelay_modRelay_self h _) _).trans ?_
  rw [← htn]; rfl

/-- The take side that is sent a step (R43). -/
theorem getRelay_takeStep (hr : getRelay s t = some r) (x : Nat) (k : StepKind) (j l : Nat) (b : BinId) (st : TakeState) :
    getRelay (takeStep t x k j l b st s) t = some { r with take := { r.take with
      stepStack := some j, state := st, timer := startTimer s.tuning r.timingSet st.phase } } := by
  have h : getRelay (openStep x k j l b s) t = some r := by rw [← hr]; unfold getRelay; rw [openStep_relays]
  have htn : (openStep x k j l b s).tuning = s.tuning := (congrArg State.tuning (openStep_stepless x k j l b s) :)
  refine (getRelay_modRelay_self (getRelay_modRelay_self h _) _).trans ?_
  rw [← htn]; rfl

/-- The robot that is sent a step (R140). -/
theorem getRobot_openStep {x : Nat} {c : Robot} (hc : getRobot s x = some c) (k : StepKind) (j l : Nat) (b : BinId) :
    getRobot (openStep x k j l b s) x = some { c with
      step := some { seq := c.nextSeq, kind := k, x := (getStack s j).x, y := (getStack s j).y, level := l, bin := b }
      nextSeq := c.nextSeq + 1#8, state := .acting } := by
  unfold openStep
  rw [hc]
  exact getRobot_modRobot_self hc _

/-- A granted set-down of a waiting giver sends it its SET (R47). -/
theorem arbiter_give (hpick : arbiterPick s i = some e) (hp : e.purpose = .give) (hr : getRelay s e.tag = some r)
    (hst : r.give.state = .wait) (hx : r.give.robot = some e.robot) :
    getRelay (arbiter i s) e.tag = some { r with give := { r.give with
      stepStack := some i, state := .setting, timer := startTimer s.tuning r.timingSet (some .giveAct) } } := by
  rw [arbiter_of_some hpick, grantTo]
  let g := modRobot e.robot (fun c => { c with accessHeld := some i })
    (modStack i (fun k => { k with holder := some e, waits := k.waits.erase e }) s)
  have hg : getRelay g e.tag = some r := hr
  rw [show modRobot e.robot _ _ = g from rfl, onRelay_some _ hg, hp]
  exact (congrArg (getRelay · e.tag) (if_pos ⟨hst, hx⟩)).trans (getRelay_giveStep hg ..)

/-- A granted lift of a waiting taker sends it its LIFT (R52). -/
theorem arbiter_take (hpick : arbiterPick s i = some e) (hp : e.purpose = .take) (hr : getRelay s e.tag = some r)
    (hst : r.take.state = .wait) (hx : r.take.robot = some e.robot) :
    getRelay (arbiter i s) e.tag = some { r with take := { r.take with
      stepStack := some i, state := .lifting, timer := startTimer s.tuning r.timingSet (some .takeAct) } } := by
  rw [arbiter_of_some hpick, grantTo]
  let g := modRobot e.robot (fun c => { c with accessHeld := some i })
    (modStack i (fun k => { k with holder := some e, waits := k.waits.erase e }) s)
  have hg : getRelay g e.tag = some r := hr
  rw [show modRobot e.robot _ _ = g from rfl, onRelay_some _ hg, hp]
  exact (congrArg (getRelay · e.tag) (if_pos ⟨hst, hx⟩)).trans (getRelay_takeStep hg ..)

/-! ## The sides' answers -/

theorem giveArrived_accepted (hr : getRelay s t = some r) (hb : r.binding = some i) (he : r.endPending = none) {x : Nat}
    (ha : joinAccepted s i { robot := x, purpose := .give, tag := t, bin := r.bin } = true) :
    giveArrived t i x s = arbiter i (enterGive t .wait
      (joinWaits i false { robot := x, purpose := .give, tag := t, bin := r.bin } s)) := by
  unfold giveArrived
  rw [onRelay_some _ hr, if_pos hb]
  exact (if_neg (by simp [he])).trans (if_pos ha)

theorem takeJoin_accepted (hr : getRelay s t = some r) {x : Nat} (hx : r.take.robot = some x) (he : r.endPending = none)
    (b : Bool) (ha : joinAccepted s i { robot := x, purpose := .take, tag := t, bin := r.bin } = true) :
    takeJoin t i b s = arbiter i (enterTake t (if (getStack s i).onTop r.bin then .wait else .buried)
      (joinWaits i b { robot := x, purpose := .take, tag := t, bin := r.bin } s)) := by
  unfold takeJoin
  rw [onRelay_some _ hr, hx]
  exact if_pos (by simp [he, ha])

theorem takeArrived_of_bound (hr : getRelay s t = some r) (hb : r.binding = some i)
    (hrest : (getStack s i).rests r.bin = true) : takeArrived t i s = takeJoin t i false s := by
  unfold takeArrived
  rw [onRelay_some _ hr, hb]
  exact (if_pos rfl).trans (if_pos hrest)

theorem takeArrived_of_no_rest (hr : getRelay s t = some r) (hb : r.binding = some i)
    (hrest : (getStack s i).rests r.bin = false) : takeArrived t i s = enterTake t .ready s := by
  unfold takeArrived
  rw [onRelay_some _ hr, hb]
  exact (if_pos rfl).trans (if_neg (by simp [hrest]))

theorem takeArrived_of_unbound (hr : getRelay s t = some r) (hb : r.binding = none) :
    takeArrived t i s = enterTake t .idle s := by
  unfold takeArrived
  rw [onRelay_some _ hr, hb]

theorem takeArrived_of_moved (hr : getRelay s t = some r) {j : Nat} (hb : r.binding = some j) (hj : j ≠ i) :
    takeArrived t i s = goOnIdle t (enterTake t .idle s) := by
  unfold takeArrived
  rw [onRelay_some _ hr, hb]
  exact if_neg hj

/-- A taker in T_IDLE goes on to the bound stack (R42). -/
theorem goOnIdle_of_idle (hr : getRelay s t = some r) {j x : Nat} (hb : r.binding = some j) (hx : r.take.robot = some x)
    (hi : r.take.state = .idle) (he : r.endPending = none) :
    goOnIdle t s = takeStep t x .approach j 0 0#32 .approach s := by
  unfold goOnIdle
  rw [onRelay_some _ hr, hb]
  refine (if_pos ⟨hi, he⟩).trans ?_
  unfold approachTake
  rw [hx]

end Sys2Proof.Machine

namespace Sys2Proof

open Machine

/-- Settles O23: the move puts the bin on top, and what follows keeps every stack's bins. -/
theorem setDoneRestsBin : Obligations.SetDoneRestsBin := by
  have hset {s : State} {i x : Nat} {b : BinId} (bus : Bus) (tag : Tag) (y n : Nat) (rep : Report) (l : Nat)
      (hh : holds (getStack s i) x true = true) :
      HasBins (fun j => if j = i then binsOf s i ++ [b] else binsOf s j)
        (recordSet i y n b tag (atSide bus tag l rep s)) := by
    refine recordSet_of_moved (hasBins_inner _) y n b tag ?_
    have hi : i < (atSide bus tag l rep s).stackRecs.length := by rw [atSide_stackRecs]; exact holds_lt hh
    have hstacks : binsOf (atSide bus tag l rep s) = binsOf s := by
      funext j; unfold binsOf; rw [getStack_of_stackRecs (atSide_stackRecs ..)]
    exact hstacks ▸ hasBins_setDown hi b _
  have hout {s u : State} {i : Nat} {b : BinId}
      (h : HasBins (fun j => if j = i then binsOf s i ++ [b] else binsOf s j) u) :
      binsOf (endBus u) i = binsOf s i ++ [b] ∧ ∀ j, j ≠ i → binsOf (endBus u) j = binsOf s j :=
    ⟨(h i).trans (if_pos rfl), fun j hj => (h j).trans (if_neg hj)⟩
  refine ⟨fun s robot seq level bus c p tag r i hb hc hf hp hs hk hl hr hg hst hi hh hres => ?_,
    fun s robot seq level bus c p tag r i sh hb hc hf hp hs hk hl hr hg hx hst hi hsh hh hres => ?_⟩
  · have hserves : Serves s robot.toNat seq (.setDone level) c tag r :=
      ⟨hc, matched_of hf hp hs (by rw [hk]; rfl), hl, hr⟩
    have hd : setsDown (getStack (atSide bus tag robot.toNat (.setDone level) s) i) robot.toNat
        (r.closed robot.toNat).bin = true := by
      rw [getStack_of_stackRecs (atSide_stackRecs ..), (r.closed_sameOrder robot.toNat).bin]
      exact Bool.and_eq_true_iff.mpr ⟨hh, hres⟩
    refine ⟨_, oneFrame_give hserves hb hg hi, hout ?_⟩
    have hin := hasBins_inner fun j => if j = i then binsOf s i ++ [r.bin] else binsOf s j
    rw [hst]
    refine actDeferred_keeps hin (settle_keeps hin tag ?_)
    refine giveSetDone_of_recorded hin _ _ (getRelay_atSide hr bus _ _) hd ?_
    rw [(r.closed_sameOrder robot.toNat).bin]
    exact hset bus tag _ _ _ _ hh
  · have hserves : Serves s robot.toNat seq (.setDone level) c tag r :=
      ⟨hc, matched_of hf hp hs (by rw [hk]; rfl), hl, hr⟩
    have hclosed := Relay.closed_take hg hx
    have hd : setsDown (getStack (atSide bus tag robot.toNat (.setDone level) s) i) robot.toNat sh.movedBin = true := by
      rw [getStack_of_stackRecs (atSide_stackRecs ..)]
      exact Bool.and_eq_true_iff.mpr ⟨hh, hres⟩
    refine ⟨_, oneFrame_take hserves hb hg hx hi, hout ?_⟩
    have hin := hasBins_inner fun j => if j = i then binsOf s i ++ [sh.movedBin] else binsOf s j
    rw [hst]
    refine actDeferred_keeps hin (settle_keeps hin tag ?_)
    refine digSetDone_of_recorded hin _ (getRelay_atSide hr bus _ _) (by rw [hclosed]; exact hsh)
      (by rw [hclosed]; exact hx) hd ?_
    exact hset bus tag _ _ _ _ hh

/-- Settles O24: the move takes the top bin, and what follows keeps every stack's bins. -/
theorem liftDoneTakesTopBin : Obligations.LiftDoneTakesTopBin := by
  intro s robot seq level load bus c p tag r i hb hc hf hp hs hk hl hr hg hx hst hi hh hrest
  have hserves : Serves s robot.toNat seq (.liftDone level load) c tag r :=
    ⟨hc, matched_of hf hp hs (by rw [hk]; rfl), hl, hr⟩
  let v := atSide bus tag robot.toNat (.liftDone level load) s
  have hv : getStack v = getStack s := funext fun j => getStack_of_stackRecs (atSide_stackRecs ..) j
  have hbins : binsOf v = binsOf s := by funext j; unfold binsOf; rw [hv]
  obtain ⟨x, htop⟩ := top_of_resting hrest
  have hmove : HasBins (fun j => if j = i then (binsOf s i).dropLast else binsOf s j)
      (modStack i (fun k => { k with resting := k.resting.dropLast }) v) := hbins ▸ hasBins_lift v i
  have hin := hasBins_inner fun j => if j = i then (binsOf s i).dropLast else binsOf s j
  refine ⟨_, oneFrame_take hserves hb hg hx hi, ?_⟩
  suffices hall : HasBins (fun j => if j = i then (binsOf s i).dropLast else binsOf s j)
      (takeReport tag r.take.state i c (.liftDone level load) v) by
    have ht := actDeferred_keeps hin (settle_keeps hin tag hall)
    exact ⟨(ht i).trans (if_pos rfl), fun j hj => (ht j).trans (if_neg hj)⟩
  have htop' : (getStack v i).top = some x := by rw [hv]; exact htop
  have hh' : holds (getStack v i) c.id false = true := by rw [hv, getRobot_id hc]; exact hh
  obtain hst | hst := hst
  · rw [hst]; exact takeLiftDone_of_moved hin c _ _ htop' hh' hmove
  · rw [hst]; exact digLiftDone_of_moved hin c _ _ htop' hh' hmove

/-- Settles O26: the taker is released and the side unassigned; an empty queue gives no other. -/
theorem refusedApproachReleasesTaker : Obligations.RefusedApproachReleasesTaker := by
  intro s robot seq bus c p tag r i hb hc hf hp hs hl hr hg hx hi hst he hq hd
  have hserves : Serves s robot.toNat seq .refused c tag r := ⟨hc, matched_of hf hp hs (fits_refused _), hl, hr⟩
  let v := atSide bus tag robot.toNat .refused s
  let w := releaseWithNotice robot.toNat tag .take v
  have hv : getRelay v tag = some (r.closed robot.toNat) := getRelay_atSide hr bus _ _
  have hw : getRelay w tag = some (r.closed robot.toNat) := by
    refine (getRelay_notify ..).trans (Eq.trans ?_ hv)
    unfold releaseRobot queueRelease; split <;> rfl
  have hclosed := Relay.closed_take hg hx
  have hwq : w.standby = s.standby := by
    refine (notify_standby ..).trans (Eq.trans ?_ (atSide_standby s bus tag robot.toNat .refused))
    unfold releaseRobot queueRelease; split <;> rfl
  have hwd : w.deferred = [] := by
    refine (notify_deferred ..).trans (Eq.trans ?_ ((atSide_deferred s bus tag robot.toNat .refused).trans hd))
    unfold releaseRobot queueRelease; split <;> rfl
  have hwt : w.tuning = s.tuning := by
    refine (notify_tuning ..).trans (Eq.trans ?_ (atSide_tuning s bus tag robot.toNat .refused))
    unfold releaseRobot queueRelease; split <;> rfl
  have hu := getRelay_unassignTake hw
  have hdraw : takeApproachRefused tag c.id v = unassignTake tag w := by
    rw [getRobot_id hc]
    refine drawStandby_of_empty hu ?_
    unfold getQueue
    rw [unassignTake_standby, hwq]
    refine Eq.trans ?_ hq
    rw [hclosed]; rfl
  have hend : actDeferred (settle tag (takeApproachRefused tag c.id v)) = unassignTake tag w := by
    rw [hdraw, settle_of_none hu, actDeferred_nil (unassignTake_deferred.trans hwd)]
    rw [hclosed]; exact he
  refine ⟨endBus (unassignTake tag w), (oneFrame_take hserves hb hg hx hi).trans ?_, ?_,
    _, hu, rfl, rfl, ?_, ?_⟩
  · rw [hst]; exact congrArg (fun u => Host.Outcome.next (endBus u)) hend
  · refine ⟨{ c.reported .refused with heldBin := none, lentTo := .none, state := .free }, ?_, rfl, rfl, rfl⟩
    have hvc : getRobot v robot.toNat = some (c.reported .refused) := by
      rw [show getRobot v robot.toNat = _ from getRobot_atSide .., hc]; simp
    have hrel : getRobot (releaseRobot robot.toNat v) robot.toNat =
        some { c.reported .refused with heldBin := none, lentTo := .none, state := .free } := by
      refine getRobot_modRobot_self (s := queueRelease robot.toNat v) ?_ _
      unfold queueRelease; split <;> exact hvc
    unfold getRobot at hrel ⊢
    exact (congrArg (List.find? _) (unassignTake_robots.trans (notify_robots ..))).trans hrel
  · rw [hwt, hclosed]; rfl
  · rw [hclosed]; rfl

/-- ARRIVED leaves every robot's cell but its own (R105, R144). -/
theorem arrived_cells {s : State} {robot seq x y : Byte} {bus : Bus} {c : Robot} (hb : bus.reset = none)
    (hc : getRobot s robot.toNat = some c) (hm : matched c seq (.arrived x y) = true) :
    ∃ t : State, exec (.arrived robot seq x y bus) s = .next t ∧
      CellsAre (fun z => (getRobot s z).map fun d => if z = robot.toNat then some (x.toNat, y.toNat) else d.cell) t := by
  have hmoves := cells_moves fun z => (getRobot s z).map fun d =>
    if z = robot.toNat then some (x.toNat, y.toNat) else d.cell
  have hwritten : CellsAre (fun z => (getRobot s z).map fun d => if z = robot.toNat then some (x.toNat, y.toNat) else d.cell)
      (writeCell robot.toNat (.arrived x y) (closeStep robot.toNat (heard bus s))) := by
    intro z
    refine (congrArg (Option.map Robot.cell) (getRobot_atSide bus 0#32 robot.toNat (.arrived x y) s z)).trans ?_
    rw [Option.map_map]
    refine congrArg (Option.map · _) (funext fun d => ?_)
    by_cases hz : z = robot.toNat <;> simp [hz, Robot.reported, Report.cellAfter]
  refine ⟨_, oneFrame_eq _ hb s, ?_⟩
  change CellsAre _ (applyReport robot.toNat seq (.arrived x y) (heard bus s))
  have hheard : getRobot (heard bus s) robot.toNat = some c := by rw [← hc]; unfold getRobot; rw [heard_robots]
  unfold applyReport
  rw [hheard]
  dsimp only
  rw [if_pos hm]
  split
  · exact actDeferred_keeps hmoves.toInner (settle_keeps hmoves.toInner _ (sideReport_keeps hmoves _ _ _ hwritten))
  · exact hwritten
  · exact hwritten

/-- A giver's accepted join at its bound stack: behind a holder it waits, on a free stack it is granted (R45, R47). -/
theorem giveArrived_joins {s : State} {tag : Tag} {r : Relay} {i x : Nat} {e : Access} {c : Robot}
    (hr : getRelay s tag = some r) (hx : r.give.robot = some x) (hb : r.binding = some i) (he : r.endPending = none)
    (hc : getRobot s x = some c) (hee : e = { robot := x, purpose := .give, tag := tag, bin := r.bin })
    (ha : joinAccepted s i e = true) :
    ((getStack s i).holder ≠ none → (getStack (giveArrived tag i x s) i).waits = (getStack s i).waits ++ [e] ∧
      getRelay (giveArrived tag i x s) tag = some { r with give := { r.give with
        state := .wait, timer := startTimer s.tuning r.timingSet (some .giveWait) } }) ∧
    ((getStack s i).holder = none → (getStack s i).blocked = false → (getStack s i).waits = [] → c.accessHeld = none →
      (getStack (giveArrived tag i x s) i).holder = some e ∧ (getStack (giveArrived tag i x s) i).waits = [] ∧
      getRelay (giveArrived tag i x s) tag = some { r with give := { r.give with
        state := .setting, stepStack := some i, timer := startTimer s.tuning r.timingSet (some .giveAct) } }) := by
  subst hee
  let e : Access := { robot := x, purpose := .give, tag := tag, bin := r.bin }
  let w := enterGive tag .wait (joinWaits i false e s)
  have hw : giveArrived tag i x s = arbiter i w := giveArrived_accepted hr hb he ha
  have hwi : getStack w i = { getStack s i with waits := (getStack s i).waits ++ [e] } := getStack_joinWaits ha
  have hwr : getRelay w tag = some { r with give := { r.give with
      state := .wait, timer := startTimer s.tuning r.timingSet (some .giveWait) } } :=
    getRelay_modRelay_self (s := joinWaits i false e s) hr _
  refine ⟨fun hh => ?_, fun hh hbl hwt hacc => ?_⟩
  · have hstay : arbiter i w = w := arbiter_of_none (arbiterPick_of_closed (.inl (by rw [hwi]; exact hh)))
    rw [hw, hstay, hwi]
    exact ⟨rfl, hwr⟩
  · have hpick : arbiterPick w i = some e := arbiterPick_single (by rw [hwi]; exact hh)
      (by rw [hwi]; exact (joinAccepted_state ha).1 rfl) (by rw [hwi, hwt]; rfl)
      (holdsElsewhere_of_free (c := c) hc hacc) (.inl ⟨rfl, by rw [hwi]; exact hbl⟩)
    rw [hw, getStack_arbiter_of_some hpick, hwi, hwt]
    have hset := arbiter_give hpick rfl hwr rfl hx
    exact ⟨rfl, by simp, hset⟩

/-- A taker's accepted join: behind a holder or on a SUSPECT stack it waits by the top, on a free ACTIVE stack with its bin
on top it is granted (R50 to R52). -/
theorem takeArrived_joins {s : State} {tag : Tag} {r : Relay} {i x : Nat} {e : Access} {c : Robot}
    (hr : getRelay s tag = some r) (hx : r.take.robot = some x) (hb : r.binding = some i) (he : r.endPending = none)
    (hc : getRobot s x = some c) (hee : e = { robot := x, purpose := .take, tag := tag, bin := r.bin })
    (ha : joinAccepted s i e = true) :
    ((getStack s i).holder ≠ none ∨ (getStack s i).state = .suspect →
      (getStack (takeArrived tag i s) i).waits = (getStack s i).waits ++ [e] ∧
      getRelay (takeArrived tag i s) tag = some { r with take := { r.take with
        state := (if (getStack s i).onTop r.bin then .wait else .buried)
        timer := startTimer s.tuning r.timingSet (if (getStack s i).onTop r.bin then some .rest else some .bury) } }) ∧
    ((getStack s i).holder = none → (getStack s i).state = .active → (getStack s i).onTop r.bin = true →
      (getStack s i).waits = [] → c.accessHeld = none →
      (getStack (takeArrived tag i s) i).holder = some e ∧ (getStack (takeArrived tag i s) i).waits = [] ∧
      getRelay (takeArrived tag i s) tag = some { r with take := { r.take with
        state := .lifting, stepStack := some i, timer := startTimer s.tuning r.timingSet (some .takeAct) } }) := by
  subst hee
  let e : Access := { robot := x, purpose := .take, tag := tag, bin := r.bin }
  let st : TakeState := if (getStack s i).onTop r.bin then .wait else .buried
  let w := enterTake tag st (joinWaits i false e s)
  have hw : takeArrived tag i s = arbiter i w :=
    (takeArrived_of_bound hr hb ((joinAccepted_state ha).2.1 rfl)).trans (takeJoin_accepted hr hx he false ha)
  have hwi : getStack w i = { getStack s i with waits := (getStack s i).waits ++ [e] } := getStack_joinWaits ha
  have hwr : getRelay w tag = some { r with take := { r.take with
      state := st, timer := startTimer s.tuning r.timingSet st.phase } } :=
    getRelay_modRelay_self (s := joinWaits i false e s) hr _
  refine ⟨fun hh => ?_, fun hh hact htop hwt hacc => ?_⟩
  · have hclosed : (getStack w i).holder ≠ none ∨ (getStack w i).state ≠ .active := by
      rw [hwi]; exact hh.imp_right fun h => by rw [show (getStack s i).state = .suspect from h]; decide
    have hphase : st.phase = if (getStack s i).onTop r.bin then some .rest else some .bury := by
      unfold st; split <;> rfl
    rw [hw, arbiter_of_none (arbiterPick_of_closed hclosed), hwi, ← hphase]
    exact ⟨rfl, hwr⟩
  · have hpick : arbiterPick w i = some e := arbiterPick_single (by rw [hwi]; exact hh)
      (by rw [hwi]; exact hact) (by rw [hwi, hwt]; rfl)
      (holdsElsewhere_of_free (c := c) hc hacc) (.inr ⟨rfl, by rw [hwi]; exact htop⟩)
    have hst : st = .wait := if_pos htop
    rw [hw, getStack_arbiter_of_some hpick, hwi, hwt]
    have hlift := arbiter_take hpick rfl hwr hst hx
    exact ⟨rfl, by simp, hlift⟩

/-- Settles O22: the side's answer by its binding, and the report that reaches it. -/
theorem arrivedWritesCell : Obligations.ArrivedWritesCell := by
  refine ⟨fun s robot seq x y bus c p hb hc hf hp hs hk => ?_,
    fun s robot seq x y bus c p tag r i e hb hc hf hp hs hk hl hr hg hst hi hbind he hd hee ha => ?_,
    fun s robot seq x y bus c p tag r i e hb hc hf hp hs hk hl hr hg hx hst hi he hd hee => ?_⟩
  · obtain ⟨t, ht, hcells⟩ := arrived_cells hb hc (matched_of hf hp hs (by rw [hk]; rfl))
    refine ⟨t, ht, ?_, fun z d hz hd => ?_⟩
    · have h := hcells robot.toNat
      simp only [hc, Option.map_some, if_true] at h
      exact Option.map_eq_some_iff.mp h
    · have h := hcells z
      simp only [hd, Option.map_some, hz, if_false] at h
      exact h.symm
  · have hserves : Serves s robot.toNat seq (.arrived x y) c tag r :=
      ⟨hc, matched_of hf hp hs (by rw [hk]; rfl), hl, hr⟩
    let v := atSide bus tag robot.toNat (.arrived x y) s
    have hv : getStack v = getStack s := funext fun j => getStack_of_stackRecs (atSide_stackRecs ..) j
    have hvr : getRelay v tag = some { r with give := { r.give with stepStack := none, timer := none } } := by
      rw [getRelay_atSide hr bus, Relay.closed_give hg]
    have hvc : getRobot v robot.toNat = some (c.reported (.arrived x y)) := by
      rw [show getRobot v robot.toNat = _ from getRobot_atSide .., hc]; simp
    have hva : joinAccepted v i e = true := by rw [joinAccepted_of_stackRecs (atSide_stackRecs ..)]; exact ha
    obtain ⟨hwait, hgrant⟩ := giveArrived_joins hvr hg hbind he hvc hee hva
    have hend : actDeferred (settle tag (giveArrived tag i robot.toNat v)) = giveArrived tag i robot.toNat v := by
      refine settled (giveArrived_keeps (listed_quiet _) tag i _ (listed_of hvr)) (getRelay_tag hvr) he ?_
      exact giveArrived_keeps (deferred_quiet []) tag i _ ((atSide_deferred ..).trans hd)
    obtain ⟨r', hr', -⟩ := giveArrived_keeps (listed_quiet _) tag i robot.toNat (listed_of hvr)
    have hr' : getRelay (giveArrived tag i robot.toNat v) tag = some r' := getRelay_tag hvr ▸ hr'
    have htn : v.tuning = s.tuning := atSide_tuning ..
    rw [hv] at hwait hgrant
    refine ⟨endBus (giveArrived tag i robot.toNat v), r', ?_, hr', fun hh => ?_, fun hh hbl hwt hacc => ?_⟩
    · refine (oneFrame_give hserves hb hg hi).trans ?_
      rw [hst]; exact congrArg (fun u => Host.Outcome.next (endBus u)) hend
    · obtain ⟨hw, hrec⟩ := hwait hh
      cases hr'.symm.trans hrec
      exact ⟨hw, rfl, htn ▸ rfl⟩
    · obtain ⟨hh', hw, hrec⟩ := hgrant hh hbl hwt hacc
      cases hr'.symm.trans hrec
      exact ⟨hh', hw, rfl, rfl, htn ▸ rfl⟩
  · have hserves : Serves s robot.toNat seq (.arrived x y) c tag r :=
      ⟨hc, matched_of hf hp hs (by rw [hk]; rfl), hl, hr⟩
    let v := atSide bus tag robot.toNat (.arrived x y) s
    have hvs : v.stackRecs = s.stackRecs := atSide_stackRecs ..
    have hv : getStack v = getStack s := funext fun j => getStack_of_stackRecs hvs j
    have hvr : getRelay v tag = some { r with take := { r.take with stepStack := none, timer := none } } := by
      rw [getRelay_atSide hr bus, Relay.closed_take hg hx]
    have hvc : getRobot v robot.toNat = some (c.reported (.arrived x y)) := by
      rw [show getRobot v robot.toNat = _ from getRobot_atSide .., hc]; simp
    have hend : actDeferred (settle tag (takeArrived tag i v)) = takeArrived tag i v := by
      refine settled (takeArrived_keeps (listed_quiet _) tag i (listed_of hvr)) (getRelay_tag hvr) he ?_
      exact takeArrived_keeps (deferred_quiet []) tag i ((atSide_deferred ..).trans hd)
    obtain ⟨r', hr', -⟩ := takeArrived_keeps (listed_quiet _) tag i (listed_of hvr)
    have hr' : getRelay (takeArrived tag i v) tag = some r' := getRelay_tag hvr ▸ hr'
    have htn : v.tuning = s.tuning := atSide_tuning ..
    refine ⟨endBus (takeArrived tag i v), r', ?_, hr', fun hbind ha hh => ?_, fun hbind ha hh hact htop hwt hacc => ?_,
      fun hbind hrest => ?_, fun j hbind hj => ?_, fun hbind => ?_⟩
    · refine (oneFrame_take hserves hb hg hx hi).trans ?_
      rw [hst]; exact congrArg (fun u => Host.Outcome.next (endBus u)) hend
    · have hva : joinAccepted v i e = true := by rw [joinAccepted_of_stackRecs hvs]; exact ha
      obtain ⟨hw, hrec⟩ := (takeArrived_joins hvr hx hbind he hvc hee hva).1 (hv ▸ hh)
      rw [hv] at hw hrec
      cases hr'.symm.trans hrec
      exact ⟨hw, rfl, htn ▸ rfl⟩
    · have hva : joinAccepted v i e = true := by rw [joinAccepted_of_stackRecs hvs]; exact ha
      obtain ⟨hh', hw, hrec⟩ :=
        (takeArrived_joins hvr hx hbind he hvc hee hva).2 (hv ▸ hh) (hv ▸ hact) (hv ▸ htop) (hv ▸ hwt) hacc
      cases hr'.symm.trans hrec
      exact ⟨hh', hw, rfl, rfl, htn ▸ rfl⟩
    · have hready : takeArrived tag i v = enterTake tag .ready v := takeArrived_of_no_rest hvr hbind (hv ▸ hrest)
      rw [hready] at hr' ⊢
      cases hr'.symm.trans (getRelay_modRelay_self hvr _)
      exact ⟨rfl, htn ▸ rfl, hvs⟩
    · have hidle : getRelay (enterTake tag .idle v) tag =
          some { r with take := { r.take with stepStack := none, state := .idle, timer := none } } :=
        getRelay_modRelay_self hvr _
      have hgo : takeArrived tag i v =
          takeStep tag robot.toNat .approach j 0 0#32 .approach (enterTake tag .idle v) :=
        (takeArrived_of_moved hvr hbind hj).trans (goOnIdle_of_idle hidle hbind hx rfl he)
      rw [hgo] at hr' ⊢
      cases hr'.symm.trans (getRelay_takeStep hidle ..)
      refine ⟨rfl, rfl, htn ▸ rfl, ?_, _, _, getRobot_openStep (s := enterTake tag .idle v) hvc .approach j 0 0#32, rfl, rfl,
        ?_, ?_⟩
      · exact (congrArg State.stackRecs (takeStep_stepless tag robot.toNat .approach j 0 0#32 .approach
          (enterTake tag .idle v)) :).trans hvs
      · exact congrArg (fun g => (g j).x) hv
      · exact congrArg (fun g => (g j).y) hv
    · have hidle : takeArrived tag i v = enterTake tag .idle v := takeArrived_of_unbound hvr hbind
      rw [hidle] at hr' ⊢
      cases hr'.symm.trans (getRelay_modRelay_self hvr _)
      exact ⟨rfl, rfl, hvs⟩

end Sys2Proof

/-!
SUPPORT. The sense lines (R148 to R152): the line image bit by bit, what a raw change and a debounced change leave of the
lines, and the gate test.
-/

namespace Sys2Proof.Machine

variable {s : State} {n : Nat} {bus : Bus}

/-! ## The line image -/

/-- The sum of the bits of a list, the first as bit k, is the k-fold shift of their number. -/
theorem sum_bits_zipIdx (bs : List Line) (k : Nat) :
    ((bs.zipIdx k).map fun (l, n) => l.level.toNat * 2 ^ n).sum =
      2 ^ k * Nat.ofDigits 2 (bs.map fun l => l.level.toNat) := by
  induction bs generalizing k with
  | nil => simp
  | cons b bs ih =>
    simp only [List.zipIdx_cons, List.map_cons, List.sum_cons, ih, Nat.ofDigits_cons]
    rw [pow_succ]
    ring

theorem testBit_ofDigits_two (bs : List Line) (n : Nat) :
    (Nat.ofDigits 2 (bs.map fun l : Line => l.level.toNat)).testBit n = ((bs[n]?).getD {}).level := by
  induction bs generalizing n with
  | nil => simp
  | cons b bs ih =>
    rw [List.map_cons, Nat.ofDigits_cons]
    have hb := b.level.toNat_lt
    cases n with
    | zero =>
      cases hl : b.level <;> simp [hl, Nat.testBit_zero]
    | succ n =>
      rw [Nat.testBit_succ, List.getElem?_cons_succ, ← ih]
      congr 1
      omega

/-- Bit n of the line image is line n (R150, R181). -/
theorem lineImage_getLsbD (hn : n < 32) :
    (lineImage s).getLsbD n = (getLine s n).level := by
  unfold lineImage getLine
  rw [BitVec.getLsbD_ofNat, sum_bits_zipIdx, pow_zero, one_mul, testBit_ofDigits_two]
  simp [hn]

theorem writeImage_of_calm (ho : exchangeOpen s = true) (hc : Calm s) :
    writeImage s = { s with
      mem := Memory.put s.mem (s.exchangeBase.toNat + 32) (le32 (lineImage s)), busCount := s.busCount + 1 } := by
  unfold writeImage
  rw [if_neg (by simp [ho])]
  exact writeExchange_of_calm hc (not_fault_of_open ho) _ _

theorem writeImage_of_closed (ho : exchangeOpen s = false) : writeImage s = s := if_pos (by simp [ho])

@[simp] theorem writeImage_tick : (writeImage s).tick = s.tick :=
  portless_field State.tick (writeImage_portless s) fun _ => rfl

/-! ## The lines -/

theorem getLine_of_lines {u : State} (h : u.lines = s.lines) (j : Nat) : getLine u j = getLine s j := by
  unfold getLine; rw [h]

theorem getLine_modLine_self (h : n < s.lines.length) (f : Line → Line) : getLine (modLine n f s) n = f (getLine s n) := by
  rw [getLine_modLine, if_pos ⟨rfl, h⟩]

theorem getLine_modLine_other {j : Nat} (h : j ≠ n) (f : Line → Line) : getLine (modLine n f s) j = getLine s j := by
  rw [getLine_modLine, if_neg fun hj => h hj.1.symm]

/-- A line outside the table reads as an OFF line without a candidate. -/
theorem line_lt (h : (getLine s n).fn ≠ .off ∨ (getLine s n).candidate ≠ none) : n < s.lines.length := by
  by_contra hn
  have he : getLine s n = {} := by simp [getLine, List.getElem?_eq_none (Nat.le_of_not_lt hn)]
  rw [he] at h
  obtain h | h := h <;> exact h rfl

theorem modLine_modLine (f g : Line → Line) : modLine n g (modLine n f s) = modLine n (g ∘ f) s := by
  unfold modLine
  simp only [List.modify_modify_eq]

/-- Only the Sense Unit changes the lines. -/
theorem lines_inner (ls : List Line) : Inner fun u => u.lines = ls := by
  constructor
  case toQuiet => constructor <;> (intros; assumption)
  case notify => exact fun s n hs => (notify_lines s n).trans hs
  case endSlot => exact fun s slot t b o hs => (portless_field State.lines (endRelaySlot_portless s slot t b o) fun _ => rfl).trans hs
  all_goals intros; assumption

theorem holdOn_lines (c : HoldCause) (s : State) : (holdOn c s).lines = s.lines := notify_lines ..

theorem makeGateTest_lines (s : State) : (makeGateTest s).lines = s.lines := by
  unfold makeGateTest; split <;> [exact holdOn_lines ..; rfl]

theorem lineActs_lines (fn : LineFn) (b : Bool) (s : State) : (lineActs fn b s).lines = s.lines := by
  cases fn with
  | off => rfl
  | gate => exact makeGateTest_lines s
  | overfill i =>
    cases b with
    | true => exact overfillRise_keeps (lines_inner s.lines) i rfl
    | false => exact overfillFall_keeps (lines_inner s.lines).toQuiet i rfl

theorem actDeferred_lines (s : State) : (actDeferred s).lines = s.lines := actDeferred_keeps (lines_inner s.lines) rfl

/-- The state in which a debounced change has written the image and its notice, and its line's function is to act. -/
def announced (n : Nat) (level : Bool) (l : Line) (s : State) : State :=
  if (l.edge = .rise ∧ level = true) ∨ (l.edge = .fall ∧ level = false) ∨ l.edge = .both
  then notify (lineChangeNotice s.tick l.fn.stack n level) (writeImage s) else writeImage s

theorem selects_iff (e : Edge) (level : Bool) :
    e.selects level = true ↔ (e = .rise ∧ level = true) ∨ (e = .fall ∧ level = false) ∨ e = .both := by
  cases e <;> cases level <;> simp [Edge.selects]

theorem announced_lines (level : Bool) (l : Line) (s : State) : (announced n level l s).lines = s.lines := by
  unfold announced; split
  · exact (notify_lines ..).trans (writeImage_lines s)
  · exact writeImage_lines s

/-- A debounced change in its order: the level, the image, the notice, the function (R150). -/
theorem debounced_eq (n : Nat) (level : Bool) (s : State) :
    debounced n level s = lineActs (getLine s n).fn level (announced n level (getLine s n)
      (modLine n (fun l => { l with level := level, candidate := none }) s)) := by
  unfold debounced announced
  dsimp only
  rw [writeImage_tick]
  by_cases h : (getLine s n).edge.selects level = true
  · rw [if_pos h, if_pos ((selects_iff ..).mp h)]
  · rw [if_neg h, if_neg fun hs => h ((selects_iff ..).mpr hs)]

theorem debounced_lines (n : Nat) (level : Bool) (s : State) :
    (debounced n level s).lines = (modLine n (fun l => { l with level := level, candidate := none }) s).lines := by
  rw [debounced_eq, lineActs_lines, announced_lines]

theorem checkTime_eq_zero {code : Nat} : checkTime code = 0 ↔ code = 0 := by
  unfold checkTime; split <;> simp_all

/-! ## The filter -/

theorem rawChanged_same {level : Bool} (h : (getLine s n).raw = level) : rawChanged n level s = s := if_pos h

theorem rawChanged_idle {level : Bool} (h : (getLine s n).raw ≠ level)
    (hf : (getLine s n).fn = .off ∨ (getLine s n).candidate.any Candidate.due = true) :
    rawChanged n level s = modLine n (fun l => { l with raw := level }) s := (if_neg h).trans (if_pos hf)

/-- What the filter does with a raw change of a line in use that has no change due (R149). -/
theorem rawChanged_filtered {level : Bool} (h : (getLine s n).raw ≠ level) (hf : (getLine s n).fn ≠ .off)
    (hd : (getLine s n).candidate.any Candidate.due = false) :
    rawChanged n level s =
      if level = (getLine s n).level then
        modLine n (fun l => { l with candidate := none }) (modLine n (fun l => { l with raw := level }) s)
      else if (getLine s n).check = 0 then debounced n level (modLine n (fun l => { l with raw := level }) s)
      else modLine n (fun l => { l with candidate := some (freshCandidate level) })
        (modLine n (fun l => { l with raw := level }) s) :=
  (if_neg h).trans ((if_neg (not_or.mpr ⟨hf, by simp [hd]⟩)).trans (by simp only [checkTime_eq_zero]))

/-- A raw change leaves the other lines. -/
theorem rawChanged_other {level : Bool} {j : Nat} (hj : j ≠ n) : getLine (rawChanged n level s) j = getLine s j := by
  unfold rawChanged
  dsimp only
  split
  · rfl
  · have h1 := getLine_modLine_other (s := s) hj fun l => { l with raw := level }
    split
    · exact h1
    · split
      · exact (getLine_modLine_other hj _).trans h1
      · split
        · exact (getLine_of_lines (debounced_lines ..) j).trans ((getLine_modLine_other hj _).trans h1)
        · exact (getLine_modLine_other hj _).trans h1

theorem execRawLineChange_eq {level : Bool} (hb : bus.reset = none) (hn : n < 32) :
    exec (.rawLineChange n level bus) s = .next (endBus (actDeferred (rawChanged n level (beginBus bus s)))) :=
  (if_pos hn).trans (withBus_next hb rfl)

/-! ## The gate test -/

/-- After the gate test hold is ON if the test succeeds (R152). -/
theorem makeGateTest_hold (h : gateTest s = true) : (makeGateTest s).hold = true := by
  unfold makeGateTest
  split
  · exact portless_field State.hold (notify_portless _ _) fun _ => rfl
  · rename_i hh
    simpa [h] using hh

end Sys2Proof.Machine

namespace Sys2Proof

open Machine

/-- Settles O39: the filter's cases, and the change at once in its order. -/
theorem rawLineChangeFilters : Obligations.RawLineChangeFilters := by
  refine ⟨fun s n level bus hb hn hlen hraw => ?_, fun s n level bus l u v hb hn hl hraw hf hd hne hk hu hv => ?_,
    fun s => ⟨fun ho he hw => writeImage_of_calm ho ⟨he, hw⟩, writeImage_of_closed,
      fun _ n hn => lineImage_getLsbD hn⟩,
    fun s n level bus hb hn hdef hraw => ?_, fun s n level bus hn => ⟨?_, ?_⟩⟩
  · let s1 := beginBus bus s
    have hlt : n < s1.lines.length := by rw [show s1.lines.length = 32 from hlen]; exact hn
    have hlt1 : n < (modLine n (fun l => { l with raw := level }) s1).lines.length := by simpa [modLine] using hlt
    have hlines (j : Nat) : getLine (endBus (actDeferred (rawChanged n level s1))) j = getLine (rawChanged n level s1) j :=
      getLine_of_lines (actDeferred_lines _) j
    have hself := getLine_modLine_self hlt fun l => { l with raw := level }
    refine ⟨_, execRawLineChange_eq hb hn, fun j hj => ?_, fun hoff => ?_, fun hf hd => ?_⟩
    · rw [hlines]; exact rawChanged_other hj
    · rw [hlines, rawChanged_idle (s := s1) hraw (.inl hoff)]; exact hself
    · rw [hlines, rawChanged_filtered (s := s1) hraw hf hd]
      change getLine (if level = (getLine s n).level then _ else if (getLine s n).check = 0 then _ else _) n = _
      split
      · exact (getLine_modLine_self hlt1 _).trans (by rw [hself]; rfl)
      · split
        · exact (getLine_of_lines (debounced_lines ..) n).trans ((getLine_modLine_self hlt1 _).trans (by rw [hself]; rfl))
        · exact (getLine_modLine_self hlt1 _).trans (by rw [hself]; rfl)
  · subst hl
    let s1 := beginBus bus s
    have hlt : n < s1.lines.length := line_lt (s := s) (.inl hf)
    have hself := getLine_modLine_self hlt fun l => { l with raw := level }
    rw [execRawLineChange_eq hb hn, rawChanged_filtered (s := beginBus bus s) hraw hf hd, if_neg (by exact hne),
      if_pos (by exact hk), debounced_eq, hself, modLine_modLine, hv, hu]
    rfl
  · rw [execRawLineChange_eq hb hn, rawChanged_same (s := beginBus bus s) hraw,
      actDeferred_nil (s := beginBus bus s) hdef]
    rfl
  · exact if_neg (Nat.not_lt.mpr hn)
  · exact if_neg (Nat.not_lt.mpr hn)

end Sys2Proof

/-!
SUPPORT. What access and placement leave alone, more closely than `Quiet` says it: of a relay all but its sides' steps and its
binding (`Relay.core`), of a robot its lending and its held bin (`Robot.core`), of a stack all but its lists and its holder
(`StackRec.core`). `Placing P` is for the placements and their reservations, `Handing P` for the arbiter's grants and the
room that is handed on as well.
-/

namespace Sys2Proof.Machine

/-! ## What stands in the records -/

/-- A relay's record but for its sides' states, steps and timers, its binding and its refused stack. -/
def Relay.core (r : Relay) : Relay :=
  { r with
    give := { r.give with state := .done, stepStack := none, timer := none }
    take := { r.take with state := .done, stepStack := none, timer := none }
    binding := none, refused := none }

/-- A robot's context but for its state, its step and the access it holds. -/
def Robot.core (c : Robot) : Robot := { c with state := .free, step := none, nextSeq := 0#8, accessHeld := none }

/-- A stack's record but for its holder and its lists of pending and waiting entries. -/
def StackRec.core (k : StackRec) : StackRec := { k with pend := [], holder := none, waits := [] }

section
variable {r q : Relay} (h : q.core = r.core)
include h

theorem Relay.core_tag : q.tag = r.tag := (congrArg Relay.tag h :)
theorem Relay.core_bin : q.bin = r.bin := (congrArg Relay.bin h :)
theorem Relay.core_path : q.path = r.path := (congrArg Relay.path h :)
theorem Relay.core_takers : q.takers = r.takers := (congrArg Relay.takers h :)
theorem Relay.core_flags : q.flags = r.flags := (congrArg Relay.flags h :)
theorem Relay.core_hop : q.hop = r.hop := (congrArg Relay.hop h :)
theorem Relay.core_takeRobot : q.take.robot = r.take.robot := (congrArg (fun x => x.take.robot) h :)
theorem Relay.core_giveRefusals : q.giveRefusals = r.giveRefusals := (congrArg Relay.giveRefusals h :)
theorem Relay.core_liftRefusals : q.liftRefusals = r.liftRefusals := (congrArg Relay.liftRefusals h :)
theorem Relay.core_endPending : q.endPending = r.endPending := (congrArg Relay.endPending h :)
theorem Relay.core_clock : q.clock = r.clock := (congrArg Relay.clock h :)
theorem Relay.core_shuffle : q.shuffle = r.shuffle := (congrArg Relay.shuffle h :)

end

section
variable {k k' : StackRec} (h : k'.core = k.core)
include h

theorem StackRec.core_state : k'.state = k.state := (congrArg StackRec.state h :)
theorem StackRec.core_blocked : k'.blocked = k.blocked := (congrArg StackRec.blocked h :)
theorem StackRec.core_resting : k'.resting = k.resting := (congrArg StackRec.resting h :)

end

/-! ## The frames -/

/-- A property that an opened step and the change of a side's state keep; the take side may change from the states of Q
alone. -/
structure Steps (Q : TakeState → Prop) (P : State → Prop) : Prop where
  outq : ∀ s v, P s → P { s with outq := v }
  robots : ∀ s (g : Robot → Robot), (∀ c, (g c).core = c.core) → P s → P { s with robots := s.robots.map g }
  relay : ∀ s t (f : Relay → Relay), (∀ r, (f r).core = r.core) →
    (∀ r, getRelay s t = some r → (f r).take = r.take ∨ Q r.take.state) → P s → P (modRelay t f s)

/-- The take states from which a binding sends the taker on (R42). -/
def TakeState.sendable (st : TakeState) : Prop := st = .idle ∨ st = .ready

/-- A property that the placements and their reservations keep. -/
structure Placing (P : State → Prop) : Prop extends Steps TakeState.sendable P where
  placeWait : ∀ s v, P s → P { s with placeWait := v }
  reserve : ∀ s i e, (getStack s i).open = true → P s →
    P (modStack i (fun k => { k with pend := k.pend ++ [e] }) s)

/-- A property that grants, releases and the room handed on keep as well. -/
structure Handing (P : State → Prop) : Prop extends Steps (· ≠ .unassigned) P where
  placeWait : ∀ s v, P s → P { s with placeWait := v }
  stack : ∀ s i (f : StackRec → StackRec), (∀ k, (f k).core = k.core) → (∀ k, (f k).waits.Sublist k.waits) → P s →
    P (modStack i f s)
  stackRecs : ∀ s (g : StackRec → StackRec), (∀ k, (g k).core = k.core) → (∀ k, (g k).waits.Sublist k.waits) → P s →
    P { s with stackRecs := s.stackRecs.map g }

variable {Q : TakeState → Prop} {P : State → Prop} {s : State} {t : Tag}

theorem Steps.mono {Q' : TakeState → Prop} (h : Steps Q P) (hq : ∀ st, Q' st → Q st) : Steps Q' P where
  outq := h.outq
  robots := h.robots
  relay s t f hf ht := h.relay s t f hf fun r hr => (ht r hr).imp_right (hq _)

theorem Handing.toPlacing (h : Handing P) : Placing P where
  toSteps := h.toSteps.mono fun st hst => by obtain rfl | rfl := hst <;> decide
  placeWait := h.placeWait
  reserve s i e _ := h.stack s i _ (fun _ => rfl) fun _ => .refl _

/-! ## Steps -/

/-- The side that a rule is about to change is in a state of Q. -/
def TakeIn (Q : TakeState → Prop) (t : Tag) (s : State) : Prop := ∀ r, getRelay s t = some r → Q r.take.state

theorem modRobot_steps (h : Steps Q P) (x : Nat) {f : Robot → Robot} (hf : ∀ c, (f c).core = c.core) (hs : P s) :
    P (modRobot x f s) :=
  h.robots _ _ (fun c => by split <;> [exact hf c; rfl]) hs

theorem modRelay_steps (h : Steps Q P) (t : Tag) {f : Relay → Relay} (hs : P s)
    (hf : ∀ r, (f r).core = r.core := by intro _; rfl) (ht : ∀ r, (f r).take = r.take := by intro _; rfl) :
    P (modRelay t f s) := h.relay _ _ _ hf (fun r _ => .inl (ht r)) hs

theorem openStep_steps (h : Steps Q P) (x : Nat) (k : StepKind) (i l : Nat) (b : BinId) (hs : P s) :
    P (openStep x k i l b s) := by
  unfold openStep; split
  · exact hs
  · exact h.outq _ _ (modRobot_steps h _ (fun _ => rfl) hs)

theorem enterGive_steps (h : Steps Q P) (t : Tag) (st : GiveState) (hs : P s) : P (enterGive t st s) :=
  modRelay_steps h t hs

theorem enterTake_steps (h : Steps Q P) (st : TakeState) (ht : TakeIn Q t s) (hs : P s) : P (enterTake t st s) :=
  h.relay _ _ _ (fun _ => rfl) (fun r hr => .inr (ht r hr)) hs

theorem giveStep_steps (h : Steps Q P) (t : Tag) (x : Nat) (k : StepKind) (i l : Nat) (b : BinId) (st : GiveState)
    (hs : P s) : P (giveStep t x k i l b st s) :=
  enterGive_steps h t st (modRelay_steps h t (openStep_steps h x k i l b hs))

theorem takeStep_steps (h : Steps Q P) (x : Nat) (k : StepKind) (i l : Nat) (b : BinId) (st : TakeState)
    (ht : TakeIn Q t s) (hs : P s) : P (takeStep t x k i l b st s) := by
  have ht1 : TakeIn Q t (openStep x k i l b s) := fun r hr => ht r (by rw [← hr]; unfold getRelay; rw [openStep_relays])
  refine enterTake_steps h st (fun r hr => ?_)
    (h.relay _ _ _ (fun _ => rfl) (fun r hr => .inr (ht1 r hr)) (openStep_steps h x k i l b hs))
  rw [getRelay_modRelay] at hr
  · obtain ⟨q, hq, rfl⟩ := Option.map_eq_some_iff.mp hr
    rw [if_pos rfl]
    exact ht1 q hq
  · exact fun _ => rfl

/-! ## Placement -/

theorem goOnIdle_placing (h : Placing P) (t : Tag) (hs : P s) : P (goOnIdle t s) := by
  refine onRelay_keeps hs fun r hr => ?_
  split
  · split
    · rename_i hst
      unfold approachTake; split
      · exact takeStep_steps h.toSteps _ _ _ _ _ _ (fun q hq => by cases hr.symm.trans hq; exact .inl hst.1) hs
      · exact hs
    · exact hs
  · exact hs

theorem bindingChanged_placing (h : Placing P) (t : Tag) (hs : P s) : P (bindingChanged t s) := by
  refine onRelay_keeps hs fun r hr => ?_
  split
  · exact goOnIdle_placing h t hs
  · rename_i hst
    refine goOnIdle_placing h t (enterTake_steps h.toSteps _ (fun q hq => ?_) hs)
    cases hr.symm.trans hq; exact .inr hst
  · exact hs

theorem setBinding_placing (h : Placing P) (t : Tag) (b : Option Nat) (hs : P s) : P (setBinding t b s) :=
  bindingChanged_placing h t (modRelay_steps h.toSteps t hs)

theorem placed_placing (h : Placing P) (t : Tag) (i : Nat) (r : Relay) (hs : P s) : P (placed t i r s) := by
  have h1 : P (modRelay t (fun q => { q with binding := some i }) s) := modRelay_steps h.toSteps t hs
  unfold placed
  dsimp only
  split
  · exact bindingChanged_placing h t (giveStep_steps h.toSteps _ _ _ _ _ _ _ h1)
  · exact bindingChanged_placing h t h1

theorem tryPlace_placing (h : Placing P) {r : Relay} {s' : State} (hs : P s) (hp : tryPlace t r s = some s') : P s' := by
  unfold tryPlace at hp
  split at hp
  · cases hp
  · obtain ⟨u, hu, rfl⟩ := Option.map_eq_some_iff.mp hp
    unfold reserve at hu
    split at hu
    · cases hu; exact placed_placing h t _ _ (h.reserve _ _ _ ‹_› hs)
    · cases hu

theorem askPlacement_placing (h : Placing P) (t : Tag) (hs : P s) : P (askPlacement t s) := by
  refine onRelay_keeps hs fun r _ => ?_
  split
  · exact hs
  · split
    · exact tryPlace_placing h hs ‹_›
    · split <;> [exact hs; exact h.placeWait _ _ hs]

theorem enterPlacing_placing (h : Placing P) (t : Tag) (hs : P s) : P (enterPlacing t s) :=
  askPlacement_placing h t (enterGive_steps h.toSteps t _ hs)

theorem retryOne_placing (h : Placing P) (t : Tag) (hs : P s) : P (retryOne s t) := by
  unfold retryOne; split
  · exact hs
  · split
    · exact h.placeWait _ _ (tryPlace_placing h hs ‹_›)
    · exact hs

theorem retryPlacement_placing (h : Placing P) (hs : P s) : P (retryPlacement s) :=
  foldl_keeps (fun _ t => retryOne_placing h t) _ hs

theorem giveReservationLost_placing (h : Placing P) (t : Tag) (i : Nat) (hs : P s) : P (giveReservationLost t i s) := by
  refine onRelay_keeps hs fun r _ => ?_
  have h1 : P (setBinding t none (modRelay t (fun r => { r with refused := some i }) s)) :=
    setBinding_placing h t none (modRelay_steps h.toSteps t hs)
  split
  · split <;> [exact h1; exact enterPlacing_placing h t h1; exact hs; exact hs; exact hs]
  · exact hs

/-! ## Access -/

theorem grantTo_handing (h : Handing P) (i : Nat) (e : Access) (l : Nat) (hs : P s) : P (grantTo i e l s) := by
  refine onRelay_keeps hs fun r hr => ?_
  have htake {st : TakeState} {x : Nat} {k : StepKind} {b : BinId} {j n : Nat} (st' : TakeState)
      (hst : r.take.state = st) (hne : st ≠ .unassigned) : P (takeStep e.tag x k j n b st' s) :=
    takeStep_steps h.toSteps _ _ _ _ _ _ (fun q hq => by cases hr.symm.trans hq; exact hst ▸ hne) hs
  cases e.purpose with
  | give => dsimp only; split <;> [exact giveStep_steps h.toSteps _ _ _ _ _ _ _ hs; exact hs]
  | take => dsimp only; split <;> [exact htake _ (And.left ‹_›) (by decide); exact hs]
  | shuffleLift => dsimp only; split <;> [exact htake _ (And.left ‹_›) (by decide); exact hs]
  | shuffleSet => dsimp only; split <;> [exact htake _ (And.left ‹_›) (by decide); exact hs]

theorem arbiter_handing (h : Handing P) (i : Nat) (hs : P s) : P (arbiter i s) := by
  unfold arbiter; split
  · exact hs
  · exact grantTo_handing h _ _ _ (modRobot_steps h.toSteps _ (fun _ => rfl)
      (h.stack _ _ _ (fun _ => rfl) (fun _ => List.erase_sublist) hs))

theorem clearAccess_handing (h : Handing P) (i x : Nat) (hs : P s) : P (clearAccess i x s) :=
  modRobot_steps h.toSteps _ (fun _ => rfl) (h.stack _ _ _ (fun _ => rfl) (fun _ => .refl _) hs)

theorem releaseAccess_handing (h : Handing P) (x : Nat) (hs : P s) : P (releaseAccess x s) := by
  unfold releaseAccess; split <;> [exact hs; exact arbiter_handing h _ (clearAccess_handing h _ _ hs)]

theorem stackChanged_handing (h : Handing P) (i : Nat) (hs : P s) : P (stackChanged i s) :=
  retryPlacement_placing h.toPlacing (arbiter_handing h i hs)

theorem cancelReservation_handing (h : Handing P) (i : Nat) (b : BinId) (hs : P s) : P (cancelReservation i b s) := by
  unfold cancelReservation; split
  · exact stackChanged_handing h i (h.stack _ _ _ (fun _ => rfl) (fun _ => .refl _) hs)
  · exact hs

theorem dropHold_handing (h : Handing P) (i x : Nat) (hs : P s) : P (dropHold i x s) := by
  unfold dropHold; split
  · exact stackChanged_handing h i (h.stack _ _ _ (fun _ => rfl) (fun _ => .refl _) hs)
  · exact hs

theorem dropWaits_handing (h : Handing P) (p : Access → Bool) (hs : P s) : P (dropWaits p s) :=
  h.stackRecs _ _ (fun _ => rfl) (fun _ => List.filter_sublist) hs

theorem dropRelayWaits_handing (h : Handing P) (t : Tag) (b : Bool) (hs : P s) : P (dropRelayWaits t b s) :=
  h.placeWait _ _ (dropWaits_handing h _ hs)

theorem cancelOwnReservation_handing (h : Handing P) (r : Relay) (hs : P s) : P (cancelOwnReservation r s) := by
  unfold cancelOwnReservation; split <;> [exact cancelReservation_handing h _ _ hs; exact hs]

/-! ## Properties of one record -/

/-- A relay is held with its core as it was, and with its take side but for a change from a state of Q. -/
def RelayStands (Q : TakeState → Prop) (r : Relay) (s : State) : Prop :=
  ∃ q, getRelay s r.tag = some q ∧ q.core = r.core ∧ (¬Q r.take.state → q.take = r.take)

theorem relayStands_of {r : Relay} (hr : getRelay s t = some r) : RelayStands Q r s :=
  ⟨r, getRelay_tag hr ▸ hr, rfl, fun _ => rfl⟩

theorem relayStands_steps (Q : TakeState → Prop) (r : Relay) : Steps Q (RelayStands Q r) where
  outq _ _ hs := hs
  robots _ _ _ hs := hs
  relay s t f hf ht hs := by
    obtain ⟨q, hq, hcore, htake⟩ := hs
    by_cases h : r.tag = t
    · subst h
      refine ⟨f q, getRelay_modRelay_self hq f fun r => Relay.core_tag (hf r), (hf q).trans hcore, fun hQ => ?_⟩
      obtain hsame | hin := ht q hq
      · exact hsame.trans (htake hQ)
      · exact absurd (htake hQ ▸ hin) hQ
    · exact ⟨q, (getRelay_modRelay_other h f fun r => Relay.core_tag (hf r)).trans hq, hcore, htake⟩

theorem relayStands_placing (r : Relay) : Placing (RelayStands TakeState.sendable r) where
  toSteps := relayStands_steps _ r
  placeWait _ _ hs := hs
  reserve _ _ _ _ hs := hs

theorem relayStands_handing (r : Relay) : Handing (RelayStands (· ≠ .unassigned) r) where
  toSteps := relayStands_steps _ r
  placeWait _ _ hs := hs
  stack _ _ _ _ _ hs := hs
  stackRecs _ _ _ _ hs := hs

/-- A stack's record stands but for its holder and its lists. -/
def StackStands (i : Nat) (k : StackRec) (s : State) : Prop := (getStack s i).core = k.core

theorem stackStands_handing (i : Nat) (k : StackRec) : Handing (StackStands i k) where
  outq _ _ hs := hs
  robots _ _ _ hs := hs
  relay _ _ _ _ _ hs := hs
  placeWait _ _ hs := hs
  stack s j f hf _ hs := by
    unfold StackStands at hs ⊢
    rw [getStack_modStack]
    split <;> [exact (hf _).trans hs; exact hs]
  stackRecs s g hg _ hs := by
    unfold StackStands at hs ⊢
    by_cases h : i < s.stackRecs.length
    · rw [getStack_mapStacks s g h]; exact (hg _).trans hs
    · rw [getStack_out h] at hs; rw [getStack_out (by simpa using h)]; exact hs

/-- What a robot was lent to and what it holds stands. -/
def RobotStands (c : Robot) (s : State) : Prop := ∃ d, getRobot s c.id = some d ∧ d.core = c.core

theorem robotStands_handing (c : Robot) : Handing (RobotStands c) where
  outq _ _ hs := hs
  robots s g hg hs := by
    obtain ⟨d, hd, hcore⟩ := hs
    have hid : ∀ c, (g c).id = c.id := fun c => (congrArg Robot.id (hg c) :)
    exact ⟨g d, (find_map_id _ _ hid _).trans (congrArg (Option.map g) hd), (hg d).trans hcore⟩
  relay _ _ _ _ _ hs := hs
  placeWait _ _ hs := hs
  stack _ _ _ _ _ hs := hs
  stackRecs _ _ _ _ hs := hs

theorem notEnding_handing (t : Tag) : Handing (NotEnding t) where
  outq _ _ hs := hs
  robots _ _ _ hs := hs
  relay s t' f hf _ hs r hr := by
    rw [getRelay_modRelay s t' t f fun r => Relay.core_tag (hf r)] at hr
    obtain ⟨q, hq, rfl⟩ := Option.map_eq_some_iff.mp hr
    split
    · exact (Relay.core_endPending (hf q)).trans (hs q hq)
    · exact hs q hq
  placeWait _ _ hs := hs
  stack _ _ _ _ _ hs := hs
  stackRecs _ _ _ _ hs := hs

end Sys2Proof.Machine

/-!
SUPPORT. The second refusals of a hop (R49, R55), the start of a shuffle (R68, R69), and the declarations and retirements
of stacks and robots (R175 to R178).
-/

namespace Sys2Proof.Machine

variable {s : State} {t : Tag} {r : Relay} {i x : Nat} {bus : Bus}

/-! ## Second refusals -/

theorem giveRefusal_second (hr : getRelay s t = some r) (he : r.endPending = none) (hg : r.giveRefusals ≠ 0) :
    Ending t .giveFailed (giveRefusal t i s) := by
  unfold giveRefusal
  rw [onRelay_some _ hr]
  refine (congrArg (Ending t .giveFailed) ((if_neg (by simp [he])).trans (if_neg hg))).mpr (endRelay_ending _ ?_)
  have hn := notEnding_handing t
  exact setBinding_placing hn.toPlacing t none (modRelay_steps hn.toSteps t
    (cancelReservation_handing hn _ _ (notEnding_of hr he)))

/-- A relay whose robot releases its access keeps its refusals and its pending end. -/
theorem releaseAccess_relay (hr : getRelay s t = some r) (x : Nat) :
    ∃ q, getRelay (releaseAccess x s) t = some q ∧ q.core = r.core := by
  obtain ⟨q, hq, hcore, -⟩ := releaseAccess_handing (relayStands_handing r) x (relayStands_of hr)
  exact ⟨q, getRelay_tag hr ▸ hq, hcore⟩

theorem takeLiftRefused_second (hr : getRelay s t = some r) (he : r.endPending = none) (hl : r.liftRefusals ≠ 0) :
    Ending t .takeFailed (takeLiftRefused t i x s) := by
  obtain ⟨q, hq, hcore⟩ := releaseAccess_relay hr x
  have hqe := (Relay.core_endPending hcore).trans he
  unfold takeLiftRefused
  rw [onRelay_some _ hq]
  rw [if_neg (by simp [hqe]), if_neg (by rw [Relay.core_liftRefusals hcore]; exact hl)]
  exact endRelay_ending _ (notEnding_of hq hqe)

theorem giveSetRefused_second (hr : getRelay s t = some r) (he : r.endPending = none) (hg : r.giveRefusals ≠ 0) :
    Ending t .giveFailed (giveSetRefused t i x s) := by
  obtain ⟨q, hq, hcore⟩ := releaseAccess_relay hr x
  exact giveRefusal_second hq ((Relay.core_endPending hcore).trans he) (by rw [Relay.core_giveRefusals hcore]; exact hg)

theorem giveApproachRefused_second (hr : getRelay s t = some r) (he : r.endPending = none) (hb : r.binding = some i)
    (hg : r.giveRefusals ≠ 0) : Ending t .giveFailed (giveApproachRefused t i s) := by
  unfold giveApproachRefused
  rw [onRelay_some _ hr, if_pos hb]
  exact giveRefusal_second hr he hg

/-! ## The start of a shuffle -/

/-- A stack that is chosen is a candidate (R23, R30). -/
theorem choose_candidate {candidate : Nat → StackRec → Bool} {q : PlaceRequest} {cost : Nat}
    (h : choose s candidate q = some (i, cost)) : candidate i (getStack s i) = true :=
  (mem_candidateCosts.mp (leastCost_least candidateCosts_ascending h).1).2.1

/-- A chosen target is open and not the source (R25). -/
theorem targetPlacement_target {j cost : Nat} {ex : Option Nat} {b : BinId} {o : Option Tag}
    (h : targetPlacement s i ex b o x = some (j, cost)) : (getStack s j).open = true ∧ j ≠ i := by
  have hc := choose_candidate h
  simp only [targetCandidate, Bool.and_eq_true, bne_iff_ne] at hc
  exact ⟨hc.1.1.1, hc.1.2⟩

theorem lt_of_open (h : (getStack s i).open = true) : i < s.stackRecs.length := by
  by_contra hi
  rw [getStack_out hi] at h
  cases h

/-- The shuffle part that a start writes (R67, R68). -/
def freshShuffle (e : RestEntry) (d : Option Nat) (i j : Nat) : Shuffle :=
  { movedBin := e.bin, movedRelay := e.owner, boundDistrict := d, source := i, target := some j, excluded := none
    setbacks := 0, returning := false }

/-- The state in which the reservation, the blank hold and the shuffle part of a start stand (R68). -/
def shuffleBegun (p : Tag) (i j x : Nat) (e : RestEntry) (s : State) : State :=
  modRelay p (fun r => { r with shuffle := some (freshShuffle e ((getStack s i).districtOf e.bound) i j) })
    (modStack i (fun k => { k with pend := k.pend ++ [.hold e.owner x] })
      (modStack j (fun k => { k with
        pend := k.pend ++ [.bin e.bin e.owner ((getStack s i).districtOf e.bound)] }) s))

theorem startShuffle_eq {e : RestEntry} {j cost : Nat} (hr : getRelay s t = some r) (hb : r.binding = some i)
    (hx : r.take.robot = some x) (hst : r.take.state = .buried) (hal : r.allowShuffle = true) (he : r.endPending = none)
    (ha : (getStack s i).state = .active) (hh : (getStack s i).holder = none) (hroom : (getStack s i).hasRoom = true)
    (htop : (getStack s i).top = some e) (hp : targetPlacement s i none e.bin e.owner x = some (j, cost)) :
    startShuffle t s = some (arbiter i (modStack i (fun k => { k with waits := k.waits.map fun w =>
      if w.robot = x then { w with purpose := .shuffleLift, bin := e.bin } else w }) (shuffleBegun t i j x e s))) := by
  obtain ⟨hopen, hj⟩ := targetPlacement_target hp
  have hres : reserve j e.bin e.owner ((getStack s i).districtOf e.bound) s =
      some (modStack j (fun k => { k with
        pend := k.pend ++ [.bin e.bin e.owner ((getStack s i).districtOf e.bound)] }) s) := if_pos hopen
  have hhold : blankHold i e.owner x (modStack j (fun k => { k with
      pend := k.pend ++ [.bin e.bin e.owner ((getStack s i).districtOf e.bound)] }) s) =
      some (modStack i (fun k => { k with pend := k.pend ++ [.hold e.owner x] }) (modStack j (fun k => { k with
        pend := k.pend ++ [.bin e.bin e.owner ((getStack s i).districtOf e.bound)] }) s)) :=
    if_pos (by rw [getStack_modStack_other _ _ hj]; exact ⟨ha, hroom⟩)
  unfold startShuffle
  rw [hr]
  dsimp only
  rw [hb, hx]
  dsimp only
  rw [if_pos ⟨hst, hal, he, ha, hh⟩, htop]
  dsimp only
  rw [hp]
  dsimp only
  rw [hres, Option.bind_some, hhold]
  rfl

/-- A run of the arbiter leaves every pending list. -/
theorem arbiter_pend (i j : Nat) (s : State) : (getStack (arbiter i s) j).pend = (getStack s j).pend := by
  unfold arbiter; split
  · rfl
  · rw [getStack_of_stackRecs (grantTo_stackRecs ..)]
    refine (congrArg StackRec.pend (getStack_modStack ..)).trans ?_
    split <;> rfl

theorem pend_shuffleBegun {e : RestEntry} {j : Nat} (hi : i < s.stackRecs.length) (hj : j < s.stackRecs.length)
    (hij : j ≠ i) :
    PendEntry.bin e.bin e.owner ((getStack s i).districtOf e.bound) ∈ (getStack (shuffleBegun t i j x e s) j).pend ∧
    PendEntry.hold e.owner x ∈ (getStack (shuffleBegun t i j x e s) i).pend := by
  let u := modStack j (fun k => { k with pend := k.pend ++ [.bin e.bin e.owner ((getStack s i).districtOf e.bound)] }) s
  have hi' : i < u.stackRecs.length := by simpa [u] using hi
  have hst (l : Nat) : getStack (shuffleBegun t i j x e s) l =
      getStack (modStack i (fun k => { k with pend := k.pend ++ [.hold e.owner x] }) u) l := rfl
  rw [hst, hst, getStack_modStack_other _ _ (Ne.symm hij), getStack_modStack_self _ hi', getStack_modStack_self _ hj]
  simp

/-! ## Declarations and retirements -/

/-- A stack's record under a declaration (R176). -/
def DeclareStack.record (d : DeclareStack) (k : StackRec) : StackRec :=
  { k with
    x := d.x, y := d.y, sideA := d.sideA, sideB := d.sideB, capacity := d.capacity, zone := d.zone, state := .active
    resting := [], pend := [], holder := none, waits := [] }

theorem capacity_pos {b : List Byte} {d : DeclareStack} (h : DeclareStack.ofBody b = some d) : 0 < d.capacity := by
  unfold DeclareStack.ofBody at h
  split at h
  · cases h
  · split at h
    · rename_i hc
      simp only [Bool.and_eq_true, decide_eq_true_eq] at hc
      cases h; exact hc.1.1.2
    · cases h

/-- The state of a stack's entry into SUSPECT whose notice has been appended (R18 steps 1 and 2). -/
def suspectNoted (i : Nat) (c : Cause) (t : Tag) (x : Nat) (b : BinId) (s : State) : State :=
  notify (suspectNotice s.tick t x i b c) (modStack i (fun k => { k with state := .suspect }) s)

/-- The state in which the reservations have been cancelled and handed back (R18 step 3). -/
def suspectHandedBack (i : Nat) (u : State) : State :=
  ((getStack u i).pend.filter (cancelled (getStack u i))).foldl (handBack i)
    (modStack i (fun k => { k with pend := k.pend.filter fun e => !cancelled k e }) u)

/-- The state in which the wait list has been cleared and handed back (R18 step 4). -/
def suspectRejoined (i : Nat) (v : State) : State :=
  (getStack v i).waits.foldl (waitHandBack i) (modStack i (fun k => { k with waits := [] }) v)

theorem enterSuspect_eq (i : Nat) (c : Cause) (t : Tag) (x : Nat) (b : BinId) (s : State) :
    enterSuspect i c t x b s =
      retryPlacement (suspectRejoined i (suspectHandedBack i (suspectNoted i c t x b s))) := rfl

theorem getStack_suspectNoted (hi : i < s.stackRecs.length) (c : Cause) (b : BinId) :
    getStack (suspectNoted i c t x b s) i = { getStack s i with state := .suspect } := by
  rw [suspectNoted, getStack_of_stackRecs (notify_stackRecs ..), getStack_modStack_self _ hi]

theorem suspectNoted_length (c : Cause) (b : BinId) :
    (suspectNoted i c t x b s).stackRecs.length = s.stackRecs.length := by
  rw [suspectNoted, notify_stackRecs]; simp

/-- The entry into SUSPECT of a stack with nothing pending and nobody waiting (R18). -/
theorem enterSuspect_empty {k : StackRec} (hk : getStack s i = k) (hp : k.pend = []) (hw : k.waits = []) (c : Cause)
    (b : BinId) (hi : i < s.stackRecs.length) :
    StackStands i { k with state := .suspect } (enterSuspect i c t x b s) := by
  have hstands := stackStands_handing i { k with state := .suspect }
  let u := suspectNoted i c t x b s
  have hu : getStack u i = { k with state := .suspect } := by rw [getStack_suspectNoted hi, hk]
  have hui : i < u.stackRecs.length := by rw [suspectNoted_length]; exact hi
  have hback : getStack (suspectHandedBack i u) i = { k with state := .suspect } := by
    unfold suspectHandedBack
    rw [hu]
    dsimp only
    rw [hp, List.filter_nil, List.foldl_nil, getStack_modStack_self _ hui, hu]
    dsimp only
    rw [hp, List.filter_nil, ← hp]
  rw [enterSuspect_eq, suspectRejoined, hback]
  dsimp only
  rw [hw, List.foldl_nil]
  exact retryPlacement_placing hstands.toPlacing
    (hstands.stack _ _ _ (fun _ => rfl) (fun _ => List.nil_sublist _) (congrArg StackRec.core hback))

/-- An accepted declaration leaves the declared record, ACTIVE or, under an asserted line, SUSPECT (R3, R176). -/
theorem declareStack_stands {d : DeclareStack} (hi : d.stack < s.stackRecs.length) (hc : 0 < d.capacity) :
    StackStands d.stack { d.record (getStack s d.stack) with
      state := if (getStack s d.stack).blocked then .suspect else .active } (declareStack d s) := by
  let u := modStack d.stack d.record s
  have hu : getStack u d.stack = d.record (getStack s d.stack) := getStack_modStack_self _ hi
  have hui : d.stack < u.stackRecs.length := by simpa [u] using hi
  have hdecl : declareStack d s = stackChanged d.stack (overfillTest d.stack u) := rfl
  have hroom : (getStack u d.stack).hasRoom = true := by rw [hu]; exact decide_eq_true hc
  rw [hdecl]
  refine stackChanged_handing (stackStands_handing _ _) _ ?_
  have hblocked : (getStack u d.stack).blocked = (getStack s d.stack).blocked := by rw [hu]; rfl
  have hactive : (getStack u d.stack).state = .active := by rw [hu]; rfl
  unfold overfillTest suspectCause
  rw [hroom, Bool.and_true, hblocked, hactive]
  cases (getStack s d.stack).blocked with
  | true => exact enterSuspect_empty hu rfl rfl _ _ hui
  | false => exact congrArg StackRec.core hu

theorem retireStack_state (h : (getStack s i).declared = true) : (getStack (retireStack i s) i).state = .retired := by
  have hi : i < s.stackRecs.length := lt_of_declared fun hu => by simp [StackRec.declared, hu] at h
  have hk := stackChanged_handing (stackStands_handing i { getStack s i with state := .retired }) i
    (s := modStack i (fun k => { k with state := .retired }) s)
    (congrArg StackRec.core (getStack_modStack_self (fun k => { k with state := .retired }) hi))
  exact StackRec.core_state hk

/-- The contexts after a first declaration (R177). -/
theorem find_insertRobot (c : Robot) (l : List Robot) (hc : l.find? (fun d => d.id == c.id) = none) (r : Nat) :
    (insertRobot c l).find? (fun d => d.id == r) = if r = c.id then some c else l.find? fun d => d.id == r := by
  induction l with
  | nil =>
    by_cases hr : r = c.id
    · simp [insertRobot, hr]
    · simp [insertRobot, hr, Ne.symm hr]
  | cons d l ih =>
    rw [List.find?_cons] at hc
    split at hc
    · cases hc
    · rename_i hd
      have hd' : d.id ≠ c.id := by simpa using hd
      unfold insertRobot
      by_cases hr : r = c.id
      · subst hr
        split
        · simp
        · rw [List.find?_cons, hd]; simpa using ih hc
      · have hcr : (c.id == r) = false := by simpa using Ne.symm hr
        split
        · simp [List.find?_cons, hcr]
        · rw [List.find?_cons, List.find?_cons, ih hc]; simp [hr]

/-- Only the head of the queue is spared when frames are removed while it is being sent (R141). -/
theorem unsentFrames_removeUnsent (p : OutFrame → Bool) (s : State) :
    unsentFrames (removeUnsent p s) = (unsentFrames s).filter fun f => !p f := by
  have hout : (removeUnsent p s).outq =
      (if s.tx.isSome then s.outq.take 1 else []) ++ (unsentFrames s).filter fun f => !p f := rfl
  by_cases h : s.tx.isSome = true
  · have hold : unsentFrames s = s.outq.drop 1 := if_pos h
    have hnew : unsentFrames (removeUnsent p s) = (removeUnsent p s).outq.drop 1 := if_pos h
    rw [hnew, hout, if_pos h, hold]
    cases s.outq <;> simp
  · have hnew : unsentFrames (removeUnsent p s) = (removeUnsent p s).outq := if_neg h
    rw [hnew, hout, if_neg h, List.nil_append]

end Sys2Proof.Machine

namespace Sys2Proof

open Machine

/-- Settles O25: no end is pending when the refusal acts, and the end that it decides stands. -/
theorem secondRefusalEndsRelay : Obligations.SecondRefusalEndsRelay := by
  refine ⟨fun s robot seq bus c p tag r i hb hc hf hp hs hl hr hg hi hst hgr he => ?_,
    fun s robot seq bus c p tag r i hb hc hf hp hs hl hr hg hx hi hst hlr he => ?_⟩
  · have hserves : Serves s robot.toNat seq .refused c tag r := ⟨hc, matched_of hf hp hs (fits_refused _), hl, hr⟩
    have hv := getRelay_atSide hr bus robot.toNat .refused
    have hcl := Relay.closed_give hg
    refine ⟨_, oneFrame_give hserves hb hg hi, actDeferred_ending (settle_keeps (ending_inner _ _) _ ?_)⟩
    obtain ⟨hst, hbind⟩ | hst := hst
    · rw [hst]
      exact giveApproachRefused_second hv (by rw [hcl]; exact he) (by rw [hcl]; exact hbind) (by rw [hcl]; exact hgr)
    · rw [hst]
      exact giveSetRefused_second hv (by rw [hcl]; exact he) (by rw [hcl]; exact hgr)
  · have hserves : Serves s robot.toNat seq .refused c tag r := ⟨hc, matched_of hf hp hs (fits_refused _), hl, hr⟩
    have hv := getRelay_atSide hr bus robot.toNat .refused
    have hcl := Relay.closed_take hg hx
    refine ⟨_, oneFrame_take hserves hb hg hx hi, actDeferred_ending (settle_keeps (ending_inner _ _) _ ?_)⟩
    rw [hst]
    exact takeLiftRefused_second hv (by rw [hcl]; exact he) (by rw [hcl]; exact hlr)

/-- Settles O33: target reservation, blank hold and shuffle part stand when the arbiter runs, and it leaves them. -/
theorem buryWarnStartsShuffle : Obligations.BuryWarnStartsShuffle := by
  intro s tag bus r m i robot j cost e u hb hu hr hm hd hp hst hx hbind hal he ha hh hroom htop hplace hdef
  have hur : getRelay u tag = some (r.onTimer .take fun m => { m with warnDue := false }) := by
    rw [hu]; exact getRelay_modTimer (s := beginBus bus s) hr _ _
  have hus (l : Nat) : getStack u l = getStack s l := by rw [hu]; rfl
  have hstart := startShuffle_eq hur hbind hx hst hal he (by rw [hus]; exact ha) (by rw [hus]; exact hh)
    (by rw [hus]; exact hroom) (by rw [hus]; exact htop) hplace
  obtain ⟨hopen, hij⟩ := targetPlacement_target hplace
  let v := modStack i (fun k => { k with waits := k.waits.map fun w =>
    if w.robot = robot then { w with purpose := .shuffleLift, bin := e.bin } else w }) (shuffleBegun tag i j robot e u)
  have hv : getRelay v tag = some { r.onTimer .take fun m => { m with warnDue := false } with
      shuffle := some (freshShuffle e ((getStack u i).districtOf e.bound) i j) } := by
    refine getRelay_modRelay_self (s := modStack i (fun k => { k with pend := k.pend ++ [.hold e.owner robot] })
      (modStack j (fun k => { k with
        pend := k.pend ++ [.bin e.bin e.owner ((getStack u i).districtOf e.bound)] }) u)) hur _
  obtain ⟨r', hr', hcore, -⟩ := arbiter_handing (relayStands_handing _) i (relayStands_of hv)
  have hpend (l : Nat) : (getStack (arbiter i v) l).pend = (getStack (shuffleBegun tag i j robot e u) l).pend := by
    rw [arbiter_pend]
    refine (congrArg StackRec.pend (getStack_modStack ..)).trans ?_
    split <;> rfl
  have hi : i < u.stackRecs.length := lt_of_declared (by rw [hus, ha]; decide)
  obtain ⟨hres, hhold⟩ := pend_shuffleBegun (t := tag) (x := robot) (e := e) hi (lt_of_open hopen) hij
  have hud : u.deferred = [] := by rw [hu]; exact hdef
  have hdv : (arbiter i v).deferred = [] :=
    startShuffle_keeps (deferred_quiet []) hud hstart
  have hrun : exec (.buryWarn tag bus) s = .next (endBus (arbiter i v)) := by
    have htake : takeWarn tag .take (beginBus bus s) = u := hu.symm
    simp only [exec, execBuryWarn]
    rw [withBus_of_no_reset s hb, if_pos (by rw [warnPhase_of_due (side := .take) (s := beginBus bus s) hr hm hd, hp]),
      htake, hstart]
    exact congrArg (fun t => Host.Outcome.next (endBus t)) (actDeferred_nil hdv)
  refine ⟨_, r', hrun, getRelay_tag hv ▸ hr', by rw [Relay.core_flags hcore]; rfl, ?_, ?_, ?_⟩
  · rw [Relay.core_shuffle hcore, ← hus i]; rfl
  · exact (hpend j).symm ▸ hus i ▸ hres
  · exact (hpend i).symm ▸ hhold

/-- Settles O50: each request writes its record, and the room handed on leaves it. -/
theorem declareAndRetireRequests : Obligations.DeclareAndRetireRequests := by
  intro s slot tag b ha
  refine ⟨fun d hd hi hsus hact hcell => ?_, fun d hd hnone hlen => ?_, fun i hi hdecl huse => ?_,
    fun robot c hi hc hbusy => ?_⟩
  · have hk := declareStack_stands (s := s) hi (capacity_pos hd)
    have hrun : runSlot slot 1 tag b s = (some .done, declareStack d s) := by
      rw [runSlot_of_kind (k := .declareStack) rfl ha]
      have huse : ¬((getStack s d.stack).state = .active ∧ (getStack s d.stack).inUse = true) := fun h =>
        hact.elim (fun hne => hne h.1) fun hn => by simp [hn] at h
      simp only [RequestKind.run, requestDeclareStack, hd, hsus, huse, hcell, if_false, Bool.false_eq_true]
    refine ⟨_, _, hrun, rfl, (congrArg StackRec.x hk :), (congrArg StackRec.y hk :), (congrArg StackRec.sideA hk :),
      (congrArg StackRec.sideB hk :), (congrArg StackRec.capacity hk :), (congrArg StackRec.zone hk :),
      StackRec.core_resting hk, StackRec.core_state hk⟩
  · refine ⟨{ s with robots := insertRobot (newRobot d) s.robots }, ?_, ?_, fun r hr => ?_⟩
    · rw [runSlot_of_kind (k := .declareRobot) rfl ha]
      have hroom : s.robots.length < Config.robotMax := hlen
      simp only [RequestKind.run, requestDeclareRobot, hd, hnone, hroom, if_true]
    · exact (find_insertRobot (newRobot d) s.robots hnone _).trans (if_pos rfl)
    · exact (find_insertRobot (newRobot d) s.robots hnone r).trans (if_neg hr)
  · refine ⟨_, ?_, retireStack_state hdecl⟩
    rw [runSlot_of_kind (k := .retire) rfl ha]
    simp only [RequestKind.run, requestRetire, hi, hdecl, huse, Bool.not_true, Bool.false_eq_true, if_false]
  · refine ⟨retireRobot robot s, ?_, ?_, fun r hr => ?_, fun f hf => ?_⟩
    · rw [runSlot_of_kind (k := .retire) rfl ha]
      simp only [RequestKind.run, requestRetire, hi, hc, hbusy, Bool.false_eq_true, if_false]
    · exact List.find?_eq_none.mpr fun c hc => by
        have hne := (List.mem_filter.mp hc).2
        simpa using hne
    · change (s.robots.filter fun c => c.id != robot).find? (fun c => c.id == r) = _
      rw [List.find?_filter]
      unfold getRobot
      congr 1; funext c
      by_cases h : c.id = r <;> simp [h, hr]
    · have h := unsentFrames_removeUnsent (fun f => f.robot == robot)
        { s with robots := s.robots.filter fun c => c.id != robot }
      have hmem := (List.mem_filter.mp (h ▸ hf)).2
      simpa using hmem

end Sys2Proof

/-!
SUPPORT. What the end of one relay leaves of the others (R63, R64), the teardown of the relay itself (R64), and what a lost
or failed shuffler leaves (R78, R79).
-/

namespace Sys2Proof.Machine

/-- A property that the end of the relay with a tag keeps: grants and the room handed on, the robots let go, the relay's own
record, and the port's part. -/
structure Tearing (q : Tag) (P : State → Prop) : Prop extends Handing P where
  robotsAny : ∀ s l, P s → P { s with robots := l }
  own : ∀ s (f : Relay → Relay), (∀ r, (f r).tag = r.tag) → P s → P (modRelay q f s)
  orphan : ∀ s, P s → P (orphanBin q s)
  deferred : ∀ s v, P s → P { s with deferred := v }
  notify : ∀ s n, P s → P (notify n s)
  remove : ∀ s, P s → P (removeRelay q s)
  endSlot : ∀ s slot tag bin o, P s → P (endRelaySlot slot tag bin o s)

variable {P : State → Prop} {s : State} {q t p : Tag} {code : Code} {r : Relay} {i x : Nat} {sh : Shuffle} {c : Robot}

/-! ## The end of another relay -/

theorem queueRelease_tearing (h : Tearing q P) (x : Nat) (hs : P s) : P (queueRelease x s) := by
  unfold queueRelease; split <;> [exact hs; exact h.outq _ _ hs]

theorem letGo_tearing (h : Tearing q P) (x : Nat) (hs : P s) : P (letGo t s x) := by
  unfold letGo; split
  · exact hs
  · split
    · split <;> [exact h.robotsAny _ _ hs; exact h.robotsAny _ _ (queueRelease_tearing h x hs)]
    · exact hs

theorem expireClock_tearing (h : Tearing q P) (hs : P s) : P (expireClock q s) :=
  onRelay_keeps hs fun _ _ => h.notify _ _ (h.own _ _ (fun _ => rfl) hs)

theorem situationChanged_tearing (h : Tearing q P) (b : Bool) (hs : P s) : P (situationChanged q b s) := by
  refine onRelay_keeps hs fun r _ => ?_
  split
  · exact hs
  · split
    · exact hs
    · dsimp only
      split
      · split <;> [exact expireClock_tearing h hs; exact h.deferred _ _ (expireClock_tearing h hs)]
      · exact h.own _ _ (fun _ => rfl) hs

theorem teardown_tearing (h : Tearing q P) (code : Code) (hs : P s) : P (teardown q code s) := by
  refine onRelay_keeps hs fun r _ => h.remove _ (h.endSlot _ _ _ _ _ ?_)
  refine situationChanged_tearing h true (foldl_keeps (fun _ x => letGo_tearing h x) _
    (foldl_keeps (fun _ x => letGo_tearing h x) _ (h.orphan _ (cancelOwnReservation_handing h.toHanding r
      (dropRelayWaits_handing h.toHanding q false (foldl_keeps (fun s x hs => ?_) _ hs))))))
  split <;> [exact releaseAccess_handing h.toHanding x hs; exact hs]

theorem decideEnd_tearing (h : Tearing q P) (code : Code) (hs : P s) : P (decideEnd q code s) := by
  refine onRelay_keeps hs fun r _ => ?_
  split
  · exact hs
  · split
    · exact dropRelayWaits_handing h.toHanding q true (h.own _ _ (fun _ => rfl) hs)
    · exact teardown_tearing h code hs

theorem settle_tearing (h : Tearing q P) (hs : P s) : P (settle q s) := by
  refine onRelay_keeps hs fun r _ => ?_
  split
  · split <;> [exact hs; exact teardown_tearing h _ hs]
  · exact hs

theorem endRelay_tearing (h : Tearing q P) (code : Code) (hs : P s) : P (endRelay q code s) :=
  settle_tearing h (decideEnd_tearing h code hs)

theorem settleMoved_tearing (h : Tearing q P) (hs : P s) : P (settleMoved q s) := by
  refine onRelay_keeps hs fun r _ => ?_
  split
  · split <;> [exact hs; exact teardown_tearing h _ hs]
  · exact hs

/-- The end of another relay decides none for this one (R63). -/
theorem notEnding_tearing (h : t ≠ q) : Tearing q (NotEnding t) where
  toHanding := notEnding_handing t
  robotsAny _ _ hs := hs
  own _ f hf hs r hr := hs r ((getRelay_modRelay_other h f hf).symm.trans hr)
  orphan _ hs := hs
  deferred _ _ hs := hs
  notify s n hs r hr := hs r ((getRelay_notify s n t).symm.trans hr)
  remove s hs r hr := hs r ((getRelay_removeRelay_other s h).symm.trans hr)
  endSlot s slot t' b o hs r hr := hs r ((getRelay_endRelaySlot s slot t' b o t).symm.trans hr)

/-- A relay stands, with its take side if that is T_UNASSIGNED, and so do the standby queues. -/
def LeftAlone (r : Relay) (queues : List (List Nat)) (s : State) : Prop :=
  RelayStands (· ≠ .unassigned) r s ∧ s.standby = queues

theorem leftAlone_handing (r : Relay) (l : List (List Nat)) : Handing (LeftAlone r l) := by
  have h := relayStands_handing r
  exact {
    outq := fun s v hs => hs
    robots := fun s g hg hs => hs
    relay := fun s t f hf ht hs => ⟨h.relay s t f hf ht hs.1, hs.2⟩
    placeWait := fun s v hs => hs
    stack := fun s i f _ _ hs => hs
    stackRecs := fun s g _ _ hs => hs }

theorem RelayStands.congr {Q : TakeState → Prop} {u : State} (h : getRelay u r.tag = getRelay s r.tag)
    (hs : RelayStands Q r s) : RelayStands Q r u := by
  obtain ⟨w, hw, h'⟩ := hs
  exact ⟨w, h.trans hw, h'⟩

theorem leftAlone_tearing (h : r.tag ≠ q) (l : List (List Nat)) : Tearing q (LeftAlone r l) where
  toHanding := leftAlone_handing r l
  robotsAny _ _ hs := hs
  own _ f hf hs := ⟨hs.1.congr (getRelay_modRelay_other h f hf), hs.2⟩
  orphan _ hs := hs
  deferred _ _ hs := hs
  notify s n hs := ⟨hs.1.congr (getRelay_notify ..), (notify_standby s n).trans hs.2⟩
  remove s hs := ⟨hs.1.congr (getRelay_removeRelay_other s h), hs.2⟩
  endSlot s slot t b o hs := ⟨hs.1.congr (getRelay_endRelaySlot ..),
    (portless_field State.standby (endRelaySlot_portless s slot t b o) fun _ => rfl).trans hs.2⟩

/-! ## The failed shuffle -/

theorem onMoved_of {m : Option Tag} {f : Tag → State → State} (hs : P s) (hf : ∀ q, m = some q → P (f q s)) :
    P (onMoved m f s) := by
  unfold onMoved; split <;> [exact hf _ rfl; exact hs]

/-- A failed shuffle decides the ends of its relay and of the moved bin's relay (R78). -/
theorem failShuffle_endings (hr : getRelay s p = some r) (hsh : r.shuffle = some sh) (hx : r.take.robot = some x)
    (hne : sh.movedRelay ≠ some p) (code : Code) :
    (r.endPending = none → Ending p .takeFailed (failShuffle p code s)) ∧
    ∀ q, sh.movedRelay = some q → NotEnding q s → Ending q code (failShuffle p code s) := by
  let u := setCarried sh.movedRelay false (enterTake p .done (clearShuffle p
    (dropHold sh.source x (cancelBin sh.movedBin (dropWaits (fun e => e.robot == x) (releaseAccess x s))))))
  have hu {P : State → Prop} (h : Quiet P) (hs : P s) : P u :=
    setCarried_keeps h _ _ (enterTake_keeps h _ _ (clearShuffle_keeps h _ (dropHold_keeps h _ _
      (cancelBin_keeps h _ (dropWaits_keeps h _ (releaseAccess_keeps h _ hs))))))
  have hfail : failShuffle p code s =
      endRelay p .takeFailed (onMoved sh.movedRelay (fun q => endRelay q code) u) := by
    unfold failShuffle onShuffle
    rw [onRelay_some _ hr, hsh, hx]
  rw [hfail]
  refine ⟨fun he => endRelay_ending _ ?_, fun q hq hn => ?_⟩
  · have hp := hu (notEnding_quiet p) (notEnding_of hr he)
    exact onMoved_of hp fun q hq => endRelay_tearing (notEnding_tearing fun hpq : p = q => hne (hq.trans (congrArg some hpq.symm))) code hp
  · rw [hq]
    exact endRelay_keeps (ending_inner q code) p _ (endRelay_ending _ (hu (notEnding_quiet q) hn))

/-! ## The lost shuffler -/

/-- What a lost shuffler leaves of its relay, whose end is not pending, when no robot waits in its district (R79). -/
theorem shufflerLost_relay (hr : getRelay s p = some r) (hsh : r.shuffle = some sh) (hx : r.take.robot = some x)
    (he : r.endPending = none) (hne : sh.movedRelay ≠ some p) (hq : getQueue s r.takeDistrict = []) :
    ∃ w, getRelay (shufflerLost p s) p = some w ∧
      w.core = (({ r with shuffle := none } : Relay).unassigned s.tuning).core ∧
      w.take = (({ r with shuffle := none } : Relay).unassigned s.tuning).take := by
  let r0 : Relay := ({ r with shuffle := none } : Relay).unassigned s.tuning
  let s0 := unassignTake p (clearShuffle p s)
  let held := r.take.state != .shufLift
  let s1 := match sh.target with
    | some j => cancelReservation j sh.movedBin s0
    | none => s0
  let s2 := if sh.returning then if sh.movedRelay.isNone then cancelReservation sh.source sh.movedBin s1 else s1
    else dropHold sh.source x s1
  let s3 := setCarried sh.movedRelay false s2
  let s4 := onMoved sh.movedRelay (fun q s => if held then endRelay q .robotLost s else settleMoved q s) s3
  have hlost : shufflerLost p s = settle p (drawStandby p (unbind x s4)) := by
    unfold shufflerLost onShuffle
    rw [onRelay_some _ hr, hsh, hx] <;> rfl
  have htag : r0.tag = p := (getRelay_tag hr : r.tag = p)
  have hh := leftAlone_handing r0 s.standby
  have h0 : LeftAlone r0 s.standby s0 := by
    have hclear : getRelay (clearShuffle p s) p = some { r with shuffle := none } := getRelay_modRelay_self hr _
    exact ⟨relayStands_of (getRelay_unassignTake hclear), unassignTake_standby⟩
  have h1 : LeftAlone r0 s.standby s1 := by
    unfold s1; split <;> [exact cancelReservation_handing hh _ _ h0; exact h0]
  have h2 : LeftAlone r0 s.standby s2 := by
    unfold s2; split
    · split <;> [exact cancelReservation_handing hh _ _ h1; exact h1]
    · exact dropHold_handing hh _ _ h1
  have hother (q : Tag) (hq : sh.movedRelay = some q) : Tearing q (LeftAlone r0 s.standby) :=
    leftAlone_tearing (fun h => hne (hq.trans (congrArg some (h.symm.trans htag)))) _
  have h3 : LeftAlone r0 s.standby s3 := by
    unfold s3 setCarried; split
    · exact (hother _ ‹_›).own _ _ (fun _ => rfl) h2
    · exact h2
  have h4 : LeftAlone r0 s.standby s4 := onMoved_of h3 fun q hq => by
    split <;> [exact endRelay_tearing (hother q hq) _ h3; exact settleMoved_tearing (hother q hq) h3]
  obtain ⟨⟨w, hw, hcore, htake⟩, hstandby⟩ := h4
  have hw' : getRelay (unbind x s4) p = some w := htag ▸ hw
  have hdistrict : w.takeDistrict = r.takeDistrict := by
    unfold Relay.takeDistrict
    rw [Relay.core_path hcore, Relay.core_hop hcore]; rfl
  have hqueue : getQueue (unbind x s4) w.takeDistrict = [] := by
    rw [hdistrict, ← hq]; exact congrArg (fun l => (l[r.takeDistrict - 1]?).getD []) hstandby
  refine ⟨w, ?_, hcore, htake fun hstate => hstate rfl⟩
  rw [hlost, drawStandby_of_empty hw' hqueue, settle_of_none hw' ((Relay.core_endPending hcore).trans he)]
  exact hw'

/-! ## The moved bin's relay -/

theorem mem_of_getRelay (hr : getRelay s t = some r) : r ∈ s.relays := List.mem_of_find?_eq_some hr

/-- The relay of a bin in a shuffle has a step open (R81). -/
theorem stepOpen_of_moved (hr : getRelay s p = some r) (hsh : r.shuffle = some sh) {w : Relay} (hq : getRelay s q = some w)
    (hm : sh.movedRelay = some q) : stepOpen s w = true := by
  have h : inShuffle s w.tag = true :=
    List.any_eq_true.mpr ⟨r, mem_of_getRelay hr, by rw [hsh, getRelay_tag hq]; simpa using hm⟩
  simp [stepOpen, h]

/-- An end that a shuffle's limit decides for the moved bin's relay is pending: robots stand, and of the stacks all but the
wait lists (R63, R81). -/
theorem decideEnd_moved (hr : getRelay s p = some r) (hsh : r.shuffle = some sh) (hm : sh.movedRelay = some q)
    (code : Code) : (decideEnd q code s).robots = s.robots ∧
      ∀ i, ∃ w, getStack (decideEnd q code s) i = { getStack s i with waits := w } := by
  have hsame : s.robots = s.robots ∧ ∀ i, ∃ w, getStack s i = { getStack s i with waits := w } :=
    ⟨rfl, fun i => ⟨_, rfl⟩⟩
  cases hq : getRelay s q with
  | none => rw [show decideEnd q code s = s from onRelay_none _ hq]; exact hsame
  | some w =>
    by_cases he : w.endPending = none
    · rw [decideEnd_of_open hq he (stepOpen_of_moved hr hsh hq hm)]
      exact ⟨rfl, fun i => getStack_dropRelayWaits ..⟩
    · have hstay : decideEnd q code s = s :=
        (onRelay_some _ hq).trans (if_pos (Option.isSome_iff_ne_none.mpr he))
      rw [hstay]; exact hsame

/-- A shuffle's own step limit (R79). -/
theorem shuffleStepLimit_eq (hr : getRelay s t = some r) (hsh : r.shuffle = some sh) (hx : r.take.robot = some x)
    (ph : Phase) : shuffleStepLimit t ph s = shufflerLost t (faultRobot x (some ph)
      (if r.take.state = .shufLift then s else onMoved sh.movedRelay (fun q => decideEnd q .robotLost) s)) := by
  unfold shuffleStepLimit onShuffle
  rw [onRelay_some _ hr, hsh, hx]

end Sys2Proof.Machine

namespace Sys2Proof

open Machine

/-- The commands of the limits of waiting phases end their relays by `limitEnds` (R59, R61, R83, R136). -/
theorem exec_waitingLimit {s : State} {tag : Tag} {bus : Bus} {c : Instr} {side : Side} {ph : Phase} {code : Code}
    {r : Relay} {m : Timer} (hb : bus.reset = none)
    (hc : (c, side, ph, code) ∈ ([(.placeLimit tag bus, .give, .place, .noRoom),
      (.giveWaitLimit tag .give bus, .give, .giveWait, .accessTimeout), (.restLimit tag bus, .take, .rest, .restTimeout),
      (.buryLimit tag bus, .take, .bury, .buried), (.queryLimit tag bus, .take, .query, .loadRejected)] :
        List (Instr × Side × Phase × Code)))
    (hr : getRelay s tag = some r) (hm : r.timer side = some m) (hd : m.limitDue = true) (hp : m.phase = ph) :
    exec c s = .next (endBus (actDeferred (limitEnds tag code
      (modTimer tag side (fun m => { m with limitDue := false }) (beginBus bus s))))) := by
  have hlimit := takeLimit_of_due (s := beginBus bus s) hr hm hd hp (limitEnds tag code)
  simp only [List.mem_cons, List.not_mem_nil, or_false, Prod.mk.injEq] at hc
  obtain ⟨rfl, rfl, rfl, rfl⟩ | ⟨rfl, rfl, rfl, rfl⟩ | ⟨rfl, rfl, rfl, rfl⟩ | ⟨rfl, rfl, rfl, rfl⟩ | ⟨rfl, rfl, rfl, rfl⟩ := hc
  · exact withBus_next hb hlimit
  · exact withBus_next hb hlimit
  · exact withBus_next hb hlimit
  · exact withBus_next hb hlimit
  · exact withBus_next hb hlimit

/-- The record of the digging relay after a setback has cancelled its target (R76). -/
theorem getRelay_setback {s : State} {t : Tag} {r : Relay} {sh : Shuffle} {j : Nat} (hr : getRelay s t = some r)
    (hsh : r.shuffle = some sh) : ∃ w, getRelay (excludeTarget t j (cancelReservation j sh.movedBin s)) t = some w ∧
      w.shuffle = some { sh with target := none, excluded := some j } ∧ w.take.robot = r.take.robot ∧
      w.endPending = r.endPending := by
  obtain ⟨w, hw, hcore, -⟩ := cancelReservation_handing (relayStands_handing r) j sh.movedBin (relayStands_of hr)
  refine ⟨_, getRelay_modRelay_self (getRelay_tag hr ▸ hw) _, ?_,
    (Relay.core_takeRobot hcore : w.take.robot = _), (Relay.core_endPending hcore : w.endPending = _)⟩
  dsimp only
  rw [Relay.core_shuffle hcore, hsh]
  rfl

theorem modShuffle_modShuffle (t : Tag) (f g : Shuffle → Shuffle) (s : State) :
    modShuffle t g (modShuffle t f s) = modShuffle t (g ∘ f) s := by
  unfold modShuffle modRelay
  simp only [List.map_map]
  congr 1
  refine List.map_congr_left fun r _ => ?_
  by_cases h : r.tag = t <;> simp [h]

/-- What the limit of a shuffler's wait does with its shuffle (R76, R78). -/
theorem shuffleWaitLimit_cases {s : State} {t : Tag} {r : Relay} {sh : Shuffle} {x : Nat} (hr : getRelay s t = some r)
    (hsh : r.shuffle = some sh) (hx : r.take.robot = some x) :
    (∀ j, sh.returning = false → sh.target = some j → shuffleWaitLimit t s =
      setback t j (dropWaits (fun e => e.robot == x) s)) ∧
    (sh.returning = true ∨ sh.target = none → shuffleWaitLimit t s =
      failShuffle t .accessTimeout (dropWaits (fun e => e.robot == x) s)) := by
  have hlimit : shuffleWaitLimit t s = (match sh.returning, sh.target with
      | false, some j => setback t j (dropWaits (fun e => e.robot == x) s)
      | _, _ => failShuffle t .accessTimeout (dropWaits (fun e => e.robot == x) s)) := by
    unfold shuffleWaitLimit onShuffle
    rw [onRelay_some _ hr, hsh, hx] <;> rfl
  refine ⟨fun j h1 h2 => by rw [hlimit, h1, h2], fun h => ?_⟩
  rw [hlimit]
  split
  · rename_i h1 h2
    obtain h | h := h
    · cases h1.symm.trans h
    · cases h2.symm.trans h
  · rfl

/-- Settles O34. -/
theorem waitingLimitEndsRelay : Obligations.WaitingLimitEndsRelay := by
  refine ⟨fun s tag bus c side ph code r m u hb hc hr hm hd hp hu => ?_,
    fun s tag bus r m sh robot u hb hr hm hd hp hsh hx hu => ?_⟩
  · have hrun := exec_waitingLimit hb hc hr hm hd hp
    obtain ⟨hclosed, hopen, hending⟩ := limitEnds_cases (s := beginBus bus s) (code := code) hr side
      fun m => { m with limitDue := false }
    rw [← hu] at hrun hclosed hopen hending
    refine ⟨fun he ho => ?_, fun he ho hdef => ?_, fun he => ?_⟩
    · rw [hrun, hclosed he ho]
    · have hur : getRelay u tag = some (r.onTimer side fun m => { m with limitDue := false }) := by
        rw [hu]; exact getRelay_modTimer (s := beginBus bus s) hr _ _
      have hpends : actDeferred (limitEnds tag code u) = dropRelayWaits tag true
          (modRelay tag (fun r => { r with endPending := some code }) u) := by
        rw [hopen he ho, actDeferred_nil]
        rw [hu, modTimer_eq]; exact hdef
      have hrec := getRelay_modRelay_self hur fun r => { r with endPending := some code }
      exact ⟨_, _, hrun.trans (congrArg (fun t => Host.Outcome.next (endBus t)) hpends), hrec, rfl⟩
    · rw [hrun, hending he]
  · let v := modTimer tag .take (fun m => { m with limitDue := false }) (beginBus bus s)
    have hvr : getRelay v tag = some (r.onTimer .take fun m => { m with limitDue := false }) :=
      getRelay_modTimer (s := beginBus bus s) hr _ _
    have hur : getRelay u tag = some (r.onTimer .take fun m => { m with limitDue := false }) := by rw [hu]; exact hvr
    have hrun : exec (.giveWaitLimit tag .take bus) s = .next (endBus (actDeferred (shuffleWaitLimit tag v))) :=
      withBus_next hb (takeLimit_of_due (s := beginBus bus s) (side := .take) hr hm hd hp _)
    obtain ⟨hback, hfail⟩ := shuffleWaitLimit_cases hvr hsh hx
    have hsetback (j : Nat) : setback tag j u = (if sh.setbacks = 0 then
        joinSomeTarget tag (placeTarget tag (modShuffle tag (fun sh => { sh with setbacks := 1 })
          (excludeTarget tag j (cancelReservation j sh.movedBin u))))
        else failShuffle tag .giveFailed (excludeTarget tag j (cancelReservation j sh.movedBin u))) := by
      unfold setback onShuffle
      rw [onRelay_some _ hur]
      change (match r.shuffle, r.take.robot with
        | some sh, some _ => _
        | _, _ => _) = _
      rw [hsh, hx]
    refine ⟨fun j hret htgt hset => ?_, fun hcase hne => ⟨_, hrun, ?_⟩⟩
    · rw [hrun, hback j hret htgt, ← hu, hsetback j, if_pos hset, excludeTarget, modShuffle_modShuffle]
      rfl
    · have hcommon (code : Code) {w : State} (hw : shuffleWaitLimit tag v = failShuffle tag code w) {rw : Relay}
          {sw : Shuffle} (hrw : getRelay w tag = some rw) (hsw : rw.shuffle = some sw) (hxw : rw.take.robot = some robot)
          (hmw : sw.movedRelay = sh.movedRelay) (hew : rw.endPending = r.endPending)
          (hquiet : ∀ {P : State → Prop}, Quiet P → P u → P w) :
          (r.endPending = none → Ending tag .takeFailed (endBus (actDeferred (shuffleWaitLimit tag v)))) ∧
          ∀ q rq, sh.movedRelay = some q → getRelay s q = some rq → rq.endPending = none →
            Ending q code (endBus (actDeferred (shuffleWaitLimit tag v))) := by
        obtain ⟨hown, hmoved⟩ := failShuffle_endings hrw hsw hxw (hmw ▸ hne) code
        rw [hw]
        refine ⟨fun he => actDeferred_ending (hown (hew.trans he)), fun q rq hq hrq heq => ?_⟩
        refine actDeferred_ending (hmoved q (hmw.trans hq) (hquiet (notEnding_quiet q) ?_))
        rw [hu]
        refine dropWaits_keeps (notEnding_quiet q) _ ?_
        rw [modTimer_eq]
        exact modRelay_keeps (notEnding_quiet q) tag (Relay.onTimer_sameOrder .take _) (notEnding_of hrq heq)
      by_cases hat : sh.returning = false ∧ sh.target ≠ none
      · obtain ⟨hret, htgt⟩ := hat
        obtain ⟨j, htgt⟩ := Option.ne_none_iff_exists'.mp htgt
        have hset : ¬sh.setbacks = 0 := by
          obtain h | h | h := hcase
          · exact absurd (hret.symm.trans h) nofun
          · exact absurd (htgt.symm.trans h) nofun
          · exact h
        obtain ⟨w, hw, hws, hwx, hwe⟩ := getRelay_setback (j := j) hur hsh
        have hw' : shuffleWaitLimit tag v =
            failShuffle tag .giveFailed (excludeTarget tag j (cancelReservation j sh.movedBin u)) := by
          rw [hback j hret htgt, ← hu, hsetback j, if_neg hset]
        rw [if_pos ⟨hret, by rw [htgt]; nofun⟩]
        exact hcommon _ hw' hw hws (hwx.trans hx) rfl hwe
          fun h hP => excludeTarget_keeps h tag j (cancelReservation_keeps h _ _ hP)
      · have hret : sh.returning = true ∨ sh.target = none := by
          by_contra hno
          obtain ⟨h1, h2⟩ := not_or.mp hno
          exact hat ⟨by simpa using h1, h2⟩
        rw [if_neg hat]
        exact hcommon _ (by rw [hfail hret, ← hu]) hur hsh hx rfl rfl fun _ hP => hP

/-- Settles O35: the end is decided before the robot faults, and what follows keeps it, the SUSPECT stack and the bins. -/
theorem actLimitEndsRelay : Obligations.ActLimitEndsRelay := by
  refine ⟨fun s tag bus cmd side ph code r m robot c hb hcmd hr hm hd hp hx hc he hnosh => ?_,
    fun s tag bus cmd ph st r m sh robot c u hb hcmd hr hm hd hp hst hsh hx hc hu => ?_,
    fun s tag r sh robot hr hsh hx he hne hq => ?_⟩
  · let v := modTimer tag side (fun m => { m with limitDue := false }) (beginBus bus s)
    have hvr : getRelay v tag = some (r.onTimer side fun m => { m with limitDue := false }) :=
      getRelay_modTimer (s := beginBus bus s) hr _ _
    have hvx : (r.onTimer side fun m => { m with limitDue := false }).sideRobot side = some robot := by
      rw [Relay.onTimer_sideRobot]; exact hx
    have hve := ((r.onTimer_sameOrder side fun m => { m with limitDue := false }).endPending).trans he
    have hvs (i : Nat) : getStack v i = getStack s i := by unfold v; rw [modTimer_eq]; rfl
    have hvc : getRobot v robot = some c := by unfold v; rw [modTimer_eq]; exact hc
    have hrun : exec cmd s = .next (endBus (actDeferred (limitFaults tag side ph code v))) := by
      have hvsh : ((getRelay v tag).bind Relay.shuffle).isSome = false := by
        rw [hvr, Option.bind_some, Relay.onTimer_shuffle, hnosh]; rfl
      have hlimit (f : State → State) (hf : f v = limitFaults tag side ph code v) :
          takeLimit tag side ph f (beginBus bus s) = actDeferred (limitFaults tag side ph code v) := by
        rw [takeLimit_of_due (s := beginBus bus s) hr hm hd hp]; exact congrArg actDeferred hf
      simp only [List.mem_cons, List.not_mem_nil, or_false, Prod.mk.injEq] at hcmd
      obtain ⟨rfl, rfl, rfl, rfl⟩ | ⟨rfl, rfl, rfl, rfl⟩ | ⟨rfl, rfl, rfl, rfl⟩ := hcmd
      · exact withBus_next hb (hlimit _ rfl)
      · exact withBus_next hb (hlimit _ rfl)
      · exact withBus_next hb (hlimit _ (if_neg (by simp [hvsh])))
    refine ⟨_, hrun, actDeferred_ending (limitFaults_ending hvr hvx hve ph), fun i h ha hh hs ho => ?_⟩
    exact actDeferred_keeps (suspect_inner i) (limitFaults_suspect hvr hvx hve hvc ho ha ⟨h, by rw [hvs]; exact hh⟩
      (by rw [hvs]; exact hs) ph)
  · have hur : getRelay u tag = some (r.onTimer .take fun m => { m with limitDue := false }) := by
      rw [hu]; exact getRelay_modTimer (s := beginBus bus s) hr _ _
    have hus : u.stackRecs = s.stackRecs := by rw [hu, modTimer_eq]; rfl
    have huc : getRobot u robot = some c := by rw [hu, modTimer_eq]; exact hc
    let v := if st = .shufLift then u else onMoved sh.movedRelay (fun q => decideEnd q .robotLost) u
    have hv : v.robots = u.robots ∧ ∀ i, ∃ w, getStack v i = { getStack u i with waits := w } := by
      unfold v; split
      · exact ⟨rfl, fun i => ⟨_, rfl⟩⟩
      · unfold onMoved; split
        · exact decideEnd_moved hur hsh ‹_› _
        · exact ⟨rfl, fun i => ⟨_, rfl⟩⟩
    have hrun : exec cmd s = .next (endBus (actDeferred (shufflerLost tag (faultRobot robot (some ph) v)))) := by
      have hlimit : takeLimit tag .take ph (shuffleStepLimit tag ph) (beginBus bus s) =
          actDeferred (shufflerLost tag (faultRobot robot (some ph) v)) := by
        rw [takeLimit_of_due (s := beginBus bus s) (side := .take) hr hm hd hp, ← hu, shuffleStepLimit_eq hur hsh hx]
        unfold v
        rw [← hst]; rfl
      simp only [List.mem_cons, List.not_mem_nil, or_false, Prod.mk.injEq] at hcmd
      obtain ⟨rfl, rfl, -⟩ | ⟨rfl, rfl, -⟩ := hcmd
      · refine withBus_next hb (Eq.trans ?_ hlimit)
        rw [takeLimit_of_due (s := beginBus bus s) (side := .take) hr hm hd hp,
          takeLimit_of_due (s := beginBus bus s) (side := .take) hr hm hd hp, ← hu]
        exact congrArg actDeferred (if_pos (by rw [hur]; exact congrArg Option.isSome hsh))
      · exact withBus_next hb hlimit
    refine ⟨_, hrun, rfl, fun i => ?_, fun i h ha hh hs => ?_, fun q rq hst' hq hrq heq => ?_⟩
    · have hin := hasBins_inner (binsOf s)
      have h0 : HasBins (binsOf s) u := fun j => by unfold binsOf; rw [getStack_of_stackRecs hus]
      have h1 : HasBins (binsOf s) v := by
        unfold v; split <;> [exact h0; exact onMoved_keeps h0 fun q => decideEnd_keeps hin q _ h0]
      exact actDeferred_keeps hin (shufflerLost_keeps hin tag (faultRobot_keeps hin robot _ h1)) i
    · have hin := suspect_inner i
      obtain ⟨w, hw⟩ := hv.2 i
      have hvc : getRobot v robot = some c := by unfold getRobot; rw [hv.1]; exact huc
      refine actDeferred_keeps hin (shufflerLost_keeps hin tag (faultRobot_suspect hvc ha ⟨h, ?_⟩ ?_ _))
      · rw [hw, getStack_of_stackRecs hus]; exact hh
      · rw [hw, getStack_of_stackRecs hus]; exact hs
    · have hin := ending_inner q .robotLost
      have huq : NotEnding q u := by
        rw [hu, modTimer_eq]
        exact modRelay_keeps (notEnding_quiet q) tag (Relay.onTimer_sameOrder .take _) (notEnding_of hrq heq)
      have h1 : Ending q .robotLost v := by
        unfold v
        rw [if_neg (by rw [hst']; decide), hq]
        exact decideEnd_ending _ huq
      exact actDeferred_ending (shufflerLost_keeps hin tag (faultRobot_keeps hin robot _ h1))
  · obtain ⟨w, hw, hcore, htake⟩ := shufflerLost_relay hr hsh hx he hne hq
    refine ⟨w, hw, by rw [htake]; rfl, by rw [htake]; rfl, by rw [htake]; rfl, Relay.core_shuffle hcore,
      Relay.core_takers hcore, (Relay.core_endPending hcore).trans he⟩

end Sys2Proof

/-!
SUPPORT. The teardown of a relay (R64) step by step, the SEED of a stack (R21) and the settings of lines (R156).
-/

namespace Sys2Proof.Machine

variable {P : State → Prop} {s u : State} {t : Tag} {code : Code} {r : Relay} {i x : Nat} {c : Robot} {n : Nat}

/-! ## The stages of a teardown -/

/-- The state in which a relay's access, entries and reservation are gone and its bin is an orphan (R64 steps 1 to 4). -/
def vacated (t : Tag) (r : Relay) (s : State) : State :=
  orphanBin t (cancelOwnReservation r (dropRelayWaits t false
    (r.hopRobots.foldl (fun s h => if boundTo s t h then releaseAccess h s else s) s)))

/-- The state in which a relay's robots have been let go, the current hop's before the later takers (R64 steps 5 and 6). -/
def disbanded (t : Tag) (r : Relay) (s : State) : State :=
  r.laterTakers.foldl (letGo t) (r.hopRobots.foldl (letGo t) (vacated t r s))

theorem teardown_eq (hr : getRelay s t = some r) (code : Code) : teardown t code s =
    removeRelay t (endRelaySlot r.slot t r.bin
      { code := code, endTick := (situationChanged t true (disbanded t r s)).tick, hop := r.hop, place := finalPlace s r code
        flags := ((getRelay (situationChanged t true (disbanded t r s)) t).map Relay.flags).getD r.flags }
      (situationChanged t true (disbanded t r s))) := by
  unfold teardown; rw [onRelay_some _ hr]; rfl

theorem vacated_handing (h : Handing P) (ho : ∀ s, P s → P (orphanBin t s)) (hs : P s) : P (vacated t r s) := by
  refine ho _ (cancelOwnReservation_handing h r (dropRelayWaits_handing h t false (foldl_keeps (fun s x hs => ?_) _ hs)))
  split <;> [exact releaseAccess_handing h x hs; exact hs]

/-! ## What each stage leaves -/

theorem queueRelease_stackRecs (x : Nat) (s : State) : (queueRelease x s).stackRecs = s.stackRecs := by
  unfold queueRelease; split <;> rfl

theorem queueRelease_relays (x : Nat) (s : State) : (queueRelease x s).relays = s.relays := by
  unfold queueRelease; split <;> rfl

theorem letGo_stackRecs (t : Tag) (s : State) (x : Nat) : (letGo t s x).stackRecs = s.stackRecs := by
  unfold letGo; split
  · rfl
  · split
    · split <;> [rfl; exact queueRelease_stackRecs x s]
    · rfl

theorem letGo_relays (t : Tag) (s : State) (x : Nat) : (letGo t s x).relays = s.relays := by
  unfold letGo; split
  · rfl
  · split
    · split <;> [rfl; exact queueRelease_relays x s]
    · rfl

theorem disbanded_stackRecs : (disbanded t r s).stackRecs = (vacated t r s).stackRecs :=
  foldl_keeps (P := fun u => u.stackRecs = (vacated t r s).stackRecs) (fun u y h => (letGo_stackRecs t u y).trans h) _
    (foldl_keeps (P := fun u => u.stackRecs = (vacated t r s).stackRecs) (fun u y h => (letGo_stackRecs t u y).trans h) _ rfl)

theorem disbanded_relays : (disbanded t r s).relays = (vacated t r s).relays :=
  foldl_keeps (P := fun u => u.relays = (vacated t r s).relays) (fun u y h => (letGo_relays t u y).trans h) _
    (foldl_keeps (P := fun u => u.relays = (vacated t r s).relays) (fun u y h => (letGo_relays t u y).trans h) _ rfl)

/-- A property that reads no relay's record is kept by a change of a bin's situation (R125). -/
theorem situationChanged_of (hrelay : ∀ s (f : Relay → Relay), P s → P (modRelay t f s))
    (hdeferred : ∀ s v, P s → P { s with deferred := v }) (hnotify : ∀ s n, P s → P (notify n s)) (b : Bool) (hs : P s) :
    P (situationChanged t b s) := by
  have hexp : P (expireClock t s) := onRelay_keeps hs fun _ _ => hnotify _ _ (hrelay _ _ hs)
  refine onRelay_keeps hs fun r _ => ?_
  split
  · exact hs
  · split
    · exact hs
    · dsimp only
      split
      · split <;> [exact hexp; exact hdeferred _ _ hexp]
      · exact hrelay _ _ hs

theorem situationChanged_stackRecs (t : Tag) (b : Bool) (s : State) :
    (situationChanged t b s).stackRecs = s.stackRecs :=
  situationChanged_of (P := fun u => u.stackRecs = s.stackRecs) (fun _ _ h => h) (fun _ _ h => h)
    (fun u n h => (notify_stackRecs u n).trans h) b rfl

theorem situationChanged_robots (t : Tag) (b : Bool) (s : State) : (situationChanged t b s).robots = s.robots :=
  situationChanged_of (P := fun u => u.robots = s.robots) (fun _ _ h => h) (fun _ _ h => h)
    (fun u n h => (notify_robots u n).trans h) b rfl

theorem endRelaySlot_robots (slot : Nat) (t : Tag) (b : BinId) (o : Outcome) (s : State) :
    (endRelaySlot slot t b o s).robots = s.robots :=
  portless_field State.robots (endRelaySlot_portless s slot t b o) fun _ => rfl

theorem endRelaySlot_stackRecs (slot : Nat) (t : Tag) (b : BinId) (o : Outcome) (s : State) :
    (endRelaySlot slot t b o s).stackRecs = s.stackRecs :=
  portless_field State.stackRecs (endRelaySlot_portless s slot t b o) fun _ => rfl

theorem teardown_stackRecs (hr : getRelay s t = some r) : (teardown t code s).stackRecs = (vacated t r s).stackRecs := by
  rw [teardown_eq hr]
  exact (endRelaySlot_stackRecs ..).trans ((situationChanged_stackRecs ..).trans disbanded_stackRecs)

theorem teardown_robots (hr : getRelay s t = some r) : (teardown t code s).robots = (disbanded t r s).robots := by
  rw [teardown_eq hr]
  exact (endRelaySlot_robots ..).trans (situationChanged_robots ..)

/-- No entry of a wait list carries the tag. -/
def NoEntries (t : Tag) (s : State) : Prop := ∀ k ∈ s.stackRecs, ∀ e ∈ k.waits, e.tag ≠ t

theorem noEntries_handing (t : Tag) : Handing (NoEntries t) where
  outq _ _ hs := hs
  robots _ _ _ hs := hs
  relay _ _ _ _ _ hs := hs
  placeWait _ _ hs := hs
  stack s i f _ hw hs k hk e he := by
    obtain ⟨j, hj, rfl⟩ := List.mem_iff_getElem.mp hk
    simp only [modStack_stackRecs, List.getElem_modify] at he
    split at he
    · exact hs _ (List.getElem_mem _) e ((hw _).subset he)
    · exact hs _ (List.getElem_mem _) e he
  stackRecs s g _ hw hs k hk e he := by
    obtain ⟨k', hk', rfl⟩ := List.mem_map.mp hk
    exact hs k' hk' e ((hw k').subset he)

theorem noEntries_orphanBin (hs : NoEntries t s) : NoEntries t (orphanBin t s) := by
  intro k hk e he
  obtain ⟨k', hk', rfl⟩ := List.mem_map.mp hk
  exact hs k' hk' e he

theorem noEntries_dropRelayWaits (t : Tag) (s : State) : NoEntries t (dropRelayWaits t false s) := by
  intro k hk e he
  obtain ⟨k', hk', rfl⟩ := List.mem_map.mp hk
  have h := (List.mem_filter.mp he).2
  simpa using h

theorem noEntries_vacated (t : Tag) (r : Relay) (s : State) : NoEntries t (vacated t r s) :=
  noEntries_orphanBin (cancelOwnReservation_handing (noEntries_handing t) r (noEntries_dropRelayWaits t _))

theorem owner_orphanBin {k : StackRec} (hk : k ∈ (orphanBin t s).stackRecs) {e : RestEntry} (he : e ∈ k.resting) :
    e.owner ≠ some t := by
  obtain ⟨k', -, rfl⟩ := List.mem_map.mp hk
  obtain ⟨e', -, rfl⟩ := List.mem_map.mp he
  split
  · nofun
  · assumption

/-! ## Robots that are let go -/

/-- A robot is lent to a relay, or it is lent to nothing and holds no bin. -/
def BoundOrFree (t : Tag) (x : Nat) (s : State) : Prop :=
  ∃ c, getRobot s x = some c ∧ (c.lentTo = .relay t ∨ c.lentTo = .none ∧ c.heldBin = none)

/-- A robot is lent to nothing and holds no bin. -/
def IsFree (x : Nat) (s : State) : Prop := ∃ c, getRobot s x = some c ∧ c.lentTo = .none ∧ c.heldBin = none

theorem getRobot_letGo_other {y : Nat} (h : x ≠ y) (t : Tag) (s : State) : getRobot (letGo t s y) x = getRobot s x := by
  have hmod (f : Robot → Robot) (hf : ∀ c, (f c).id = c.id) (u : State) : getRobot (modRobot y f u) x = getRobot u x := by
    rw [getRobot_modRobot u y x f hf]; simp [h]
  have hqueue : getRobot (queueRelease y s) x = getRobot s x := by unfold queueRelease; split <;> rfl
  unfold letGo; split
  · rfl
  · split
    · split
      · refine hmod _ ?_ s; exact fun _ => rfl
      · refine (hmod _ ?_ _).trans hqueue; exact fun _ => rfl
    · rfl

theorem letGo_self (h : BoundOrFree t x s) : IsFree x (letGo t s x) := by
  obtain ⟨c, hc, hlent⟩ := h
  have hqueue : getRobot (queueRelease x s) x = some c := by unfold queueRelease; split <;> exact hc
  unfold letGo
  rw [hc]
  dsimp only
  split
  · split
    · exact ⟨_, getRobot_modRobot_self hc _, rfl, rfl⟩
    · exact ⟨_, getRobot_modRobot_self hqueue _, rfl, rfl⟩
  · rename_i hne
    obtain hl | hl := hlent
    · exact absurd hl hne
    · exact ⟨c, hc, hl⟩

theorem IsFree.boundOrFree (h : IsFree x s) : BoundOrFree t x s := by
  obtain ⟨c, hc, hl⟩ := h; exact ⟨c, hc, .inr hl⟩

theorem letGo_boundOrFree (h : BoundOrFree t x s) (y : Nat) : BoundOrFree t x (letGo t s y) := by
  by_cases hy : x = y
  · subst hy; exact (letGo_self h).boundOrFree
  · obtain ⟨c, hc, hl⟩ := h; exact ⟨c, (getRobot_letGo_other hy t s).trans hc, hl⟩

theorem letGo_isFree (h : IsFree x s) (y : Nat) : IsFree x (letGo t s y) := by
  by_cases hy : x = y
  · subst hy; exact letGo_self h.boundOrFree
  · obtain ⟨c, hc, hl⟩ := h; exact ⟨c, (getRobot_letGo_other hy t s).trans hc, hl⟩

/-- A robot of a list that is let go is lent to nothing afterwards (R64 steps 5 and 6). -/
theorem foldl_letGo_isFree {l : List Nat} (h : BoundOrFree t x s) (hx : x ∈ l) : IsFree x (l.foldl (letGo t) s) := by
  induction l generalizing s with
  | nil => cases hx
  | cons y l ih =>
    rw [List.foldl_cons]
    obtain rfl | hx := List.mem_cons.mp hx
    · exact foldl_keeps (P := IsFree x) (fun _ z h => letGo_isFree h z) l (letGo_self h)
    · exact ih (letGo_boundOrFree h y) hx

theorem disbanded_isFree (hx : x ∈ r.hopRobots ∨ x ∈ r.laterTakers) (hc : getRobot s x = some c)
    (hl : c.lentTo = .relay t) : IsFree x (disbanded t r s) := by
  have hstands : RobotStands c (vacated t r s) := vacated_handing (robotStands_handing c) (fun _ hs => hs)
    ⟨c, (getRobot_id hc).symm ▸ hc, rfl⟩
  obtain ⟨d, hd, hcore⟩ := hstands
  have hb : BoundOrFree t x (vacated t r s) :=
    ⟨d, getRobot_id hc ▸ hd, .inl ((congrArg Robot.lentTo hcore :).trans hl)⟩
  unfold disbanded
  obtain hx | hx := hx
  · exact foldl_keeps (P := IsFree x) (fun _ z h => letGo_isFree h z) _ (foldl_letGo_isFree hb hx)
  · exact foldl_letGo_isFree (foldl_keeps (P := BoundOrFree t x) (fun _ z h => letGo_boundOrFree h z) _ hb) hx

/-! ## The flags at a teardown -/

theorem tick_inner (k : Tick) : Inner fun u => u.tick = k := by
  constructor
  case toQuiet => constructor <;> (intros; assumption)
  case notify => exact fun s n hs => (notify_tick s n).trans hs
  case endSlot => exact fun s slot t b o hs => (portless_field State.tick (endRelaySlot_portless s slot t b o) fun _ => rfl).trans hs
  all_goals intros; assumption

theorem tick_disbanded : (disbanded t r s).tick = s.tick := by
  have h := (tick_inner s.tick).toQuiet
  refine foldl_keeps (P := fun u => u.tick = s.tick) (fun _ y => letGo_keeps h t y) _
    (foldl_keeps (P := fun u => u.tick = s.tick) (fun _ y => letGo_keeps h t y) _ (orphanBin_keeps h t
      (cancelOwnReservation_keeps h r (dropRelayWaits_keeps h t false
        (foldl_keeps (P := fun u => u.tick = s.tick) (fun v y hv => ?_) _ rfl)))))
  split <;> [exact releaseAccess_keeps h y hv; exact hv]

/-- A change of a bin's situation changes its relay's clock, and an expiry that it brings about adds EXPOSED (R125,
R126). -/
theorem situationChanged_record (hr : getRelay s t = some r) (b : Bool) :
    ∃ (fl : Sticky) (k : Option Clock), getRelay (situationChanged t b s) t = some { r with flags := fl, clock := k } ∧
      (r.clock = none → fl = r.flags) ∧ (fl = r.flags ∨ fl = { r.flags with exposed := true }) := by
  have hexp : getRelay (expireClock t s) t = some { r with
      clock := some { used := r.budget, opened := none, expired := true, due := false }
      flags := { r.flags with exposed := true } } := by
    rw [expireClock_eq hr, getRelay_notify]
    exact getRelay_modRelay_self hr _
  unfold situationChanged
  rw [onRelay_some _ hr]
  cases hk : r.clock with
  | none => exact ⟨r.flags, r.clock, hr, fun _ => rfl, .inl rfl⟩
  | some k =>
    dsimp only
    split
    · exact ⟨r.flags, r.clock, hr, nofun, .inl rfl⟩
    · split
      · refine ⟨{ r.flags with exposed := true },
          some { used := r.budget, opened := none, expired := true, due := false }, ?_, nofun, .inr rfl⟩
        split <;> exact hexp
      · exact ⟨r.flags, _, getRelay_modRelay_self hr _, nofun, .inl rfl⟩

theorem getRelay_disbanded (hr : getRelay s t = some r) :
    ∃ q, getRelay (disbanded t r s) t = some q ∧ q.core = r.core := by
  obtain ⟨q, hq, hcore, -⟩ := vacated_handing (relayStands_handing r) (t := t) (r := r) (fun _ hs => hs) (relayStands_of hr)
  refine ⟨q, ?_, hcore⟩
  have hrel : getRelay (disbanded t r s) t = getRelay (vacated t r s) t := by unfold getRelay; rw [disbanded_relays]
  exact hrel.trans (getRelay_tag hr ▸ hq)

/-! ## SEED -/

/-- The blocked flag of a stack. -/
def BlockedIs (i : Nat) (b : Bool) (s : State) : Prop := (getStack s i).blocked = b

theorem blockedIs_handing (i : Nat) (b : Bool) : Handing (BlockedIs i b) where
  outq _ _ hs := hs
  robots _ _ _ hs := hs
  relay _ _ _ _ _ hs := hs
  placeWait _ _ hs := hs
  stack s j f hf _ hs := by
    unfold BlockedIs at hs ⊢
    rw [getStack_modStack]
    split <;> [exact (StackRec.core_blocked (hf _)).trans hs; exact hs]
  stackRecs s g hg _ hs := by
    unfold BlockedIs at hs ⊢
    by_cases h : i < s.stackRecs.length
    · rw [getStack_mapStacks s g h]; exact (StackRec.core_blocked (hg _)).trans hs
    · rw [getStack_out h] at hs; rw [getStack_out (by simpa using h)]; exact hs

theorem blockedIs_tearing (i : Nat) (b : Bool) (q : Tag) : Tearing q (BlockedIs i b) where
  toHanding := blockedIs_handing i b
  robotsAny _ _ hs := hs
  own _ _ _ hs := hs
  orphan s hs := by
    unfold BlockedIs at hs ⊢
    by_cases h : i < s.stackRecs.length
    · rw [orphanBin, getStack_mapStacks s _ h]; exact hs
    · rw [getStack_out h] at hs; rw [orphanBin, getStack_out (by simpa using h)]; exact hs
  deferred _ _ hs := hs
  notify s n hs := (congrArg StackRec.blocked (getStack_of_stackRecs (notify_stackRecs s n) i)).trans hs
  remove _ hs := hs
  endSlot s slot t b' o hs :=
    (congrArg StackRec.blocked (getStack_of_stackRecs (endRelaySlot_stackRecs slot t b' o s) i)).trans hs

/-- No rule adds or removes a stack record. -/
theorem lengths_inner (m : Nat) : Inner fun u => u.stackRecs.length = m := by
  constructor
  case toQuiet =>
    constructor
    case stack => exact fun s j f _ hs => (List.length_modify ..).trans hs
    case stackRecs => exact fun s g _ hs => (List.length_map ..).trans hs
    all_goals intros; assumption
  case notify => exact fun s n hs => (congrArg List.length (notify_stackRecs s n)).trans hs
  case endSlot => exact fun s slot t b o hs => (congrArg List.length (endRelaySlot_stackRecs slot t b o s)).trans hs
  all_goals intros; assumption

theorem seedEntry_bin (old : List RestEntry) (b : BinId) : (seedEntry old b).bin = b := by
  unfold seedEntry
  cases h : old.find? fun e => e.bin == b with
  | none => rfl
  | some e => simpa using List.find?_some h

/-- A stack's bins and state after the SEED of a stack whose line is clear (R21). -/
theorem seed_clear (hi : i < s.stackRecs.length) (hb : (getStack s i).blocked = false) (bins : List BinId) :
    binsOf (seed i bins s) i = bins ∧ (getStack (seed i bins s) i).state = .active := by
  let old := (getStack s i).resting
  let s1 := modStack i (fun k => { k with resting := bins.map (seedEntry old) }) s
  let s2 := ((getStack s1 i).resting.filterMap RestEntry.owner).foldl (fun s t => situationChanged t false s) s1
  let s3 := (old.filterMap fun e => if bins.contains e.bin then none else e.owner).foldl
    (fun s t => endRelay t .stackLost s) s2
  let s4 := modStack i (fun k => { k with state := .active }) s3
  have hlisted : HasBins (fun j => if j = i then bins else binsOf s j) s1 := by
    intro j
    unfold binsOf s1
    rw [getStack_modStack]
    by_cases hj : j = i
    · subst hj
      rw [if_pos ⟨rfl, hi⟩]
      simp [seedEntry_bin, Function.comp_def]
    · rw [if_neg fun h => hj h.1.symm]
      exact (if_neg hj).symm
  have h1 : BlockedIs i false s1 := by
    unfold BlockedIs s1; rw [getStack_modStack_self _ hi]; exact hb
  have hlen : s1.stackRecs.length = s.stackRecs.length := by simp [s1]
  have h3 {P : State → Prop} (hsit : ∀ s t, P s → P (situationChanged t false s))
      (hend : ∀ s t, P s → P (endRelay t .stackLost s)) (hP : P s1) : P s3 :=
    foldl_keeps hend _ (foldl_keeps hsit _ hP)
  have hclear : BlockedIs i false s3 := h3 (fun s t => situationChanged_tearing (blockedIs_tearing i false t) false)
    (fun s t => endRelay_tearing (blockedIs_tearing i false t) _) h1
  have hbins := hasBins_inner fun j => if j = i then bins else binsOf s j
  have hlisted3 := h3 (fun s t => situationChanged_keeps hbins t false) (fun s t => endRelay_keeps hbins t _) hlisted
  have hi3 : i < s3.stackRecs.length := by
    have hkeep := lengths_inner s1.stackRecs.length
    have hlen3 : s3.stackRecs.length = s1.stackRecs.length :=
      h3 (P := fun u => u.stackRecs.length = s1.stackRecs.length) (fun s t => situationChanged_keeps hkeep t false)
        (fun s t => endRelay_keeps hkeep t _) rfl
    rw [hlen3, hlen]; exact hi
  have hseed : seed i bins s = stackChanged i (topReport i s4) := by
    refine congrArg (fun u => stackChanged i (topReport i u)) ?_
    exact if_neg fun h => by rw [show (getStack s3 i).blocked = false from hclear] at h; cases h.1
  have hstands : StackStands i { getStack s3 i with state := .active } (seed i bins s) := by
    rw [hseed]
    exact stackChanged_handing (stackStands_handing _ _) i (congrArg StackRec.core (getStack_modStack_self _ hi3))
  refine ⟨?_, StackRec.core_state hstands⟩
  have hrest := congrArg (List.map RestEntry.bin) (StackRec.core_resting hstands)
  exact hrest.trans ((hlisted3 i).trans (if_pos rfl))

end Sys2Proof.Machine

namespace Sys2Proof.Machine

variable {s u : State} {n : Nat} {es : List LineEntry} {e : LineEntry}

/-! ## The settings of lines -/

theorem mem_of_mapM_some {α β : Type} {f : α → Option β} {l : List α} {bs : List β} (h : l.mapM f = some bs) {y : β}
    (hb : y ∈ bs) : ∃ x ∈ l, f x = some y := by
  induction l generalizing bs with
  | nil => cases h; cases hb
  | cons x l ih =>
    rw [List.mapM_cons] at h
    obtain ⟨z, hz, h⟩ := Option.bind_eq_some_iff.mp h
    obtain ⟨zs, hzs, h⟩ := Option.bind_eq_some_iff.mp h
    cases h
    obtain rfl | hb := List.mem_cons.mp hb
    · exact ⟨x, List.mem_cons_self, hz⟩
    · obtain ⟨w, hw, hf⟩ := ih hzs hb
      exact ⟨w, List.mem_cons_of_mem _ hw, hf⟩

theorem line_lt_of_ofBody {b : List Byte} {k : Nat} (h : LineEntry.ofBody b k = some e) : e.line < 32 := by
  unfold LineEntry.ofBody at h
  split at h
  · cases h
  · split at h
    · rename_i hc
      simp only [Bool.and_eq_true, decide_eq_true_eq] at hc
      cases h; exact hc.1.1
    · cases h

/-- A LINES body names distinct lines below 32 (R155). -/
theorem linesOfBody_entries {b : List Byte} (h : linesOfBody b = some es) :
    (es.map LineEntry.line).Nodup ∧ ∀ e ∈ es, e.line < 32 := by
  unfold linesOfBody at h
  split at h
  · split at h
    · rename_i hm
      split at h
      · cases h
        refine ⟨‹_›, fun e he => ?_⟩
        obtain ⟨k, -, hk⟩ := mem_of_mapM_some hm he
        exact line_lt_of_ofBody hk
      · cases h
    · cases h
  · cases h

theorem settleLine_length (u : State) (e : LineEntry) : (settleLine u e).lines.length = u.lines.length :=
  List.length_modify ..

theorem getLine_foldl_settleLine_other {l : List LineEntry} (h : ∀ e ∈ l, e.line ≠ n) :
    getLine (l.foldl settleLine u) n = getLine u n := by
  induction l generalizing u with
  | nil => rfl
  | cons e l ih =>
    rw [List.foldl_cons, ih fun e' he' => h e' (List.mem_cons_of_mem _ he')]
    exact getLine_modLine_other (Ne.symm (h e List.mem_cons_self)) _

/-- A line has the function, the check time and the edge setting of an entry. -/
def Line.SetBy (e : LineEntry) (l : Line) : Prop := l.fn = e.fn ∧ l.check = e.check ∧ l.edge = e.edge

/-- Of distinct lines, each has its own entry's settings afterwards (R156 step 2). -/
theorem getLine_foldl_settleLine {l : List LineEntry} (hd : (l.map LineEntry.line).Nodup) (he : e ∈ l)
    (hn : e.line < u.lines.length) : Line.SetBy e (getLine (l.foldl settleLine u) e.line) := by
  induction l generalizing u with
  | nil => cases he
  | cons d l ih =>
    rw [List.foldl_cons]
    obtain ⟨hnot, hd⟩ := List.nodup_cons.mp hd
    obtain rfl | he := List.mem_cons.mp he
    · rw [getLine_foldl_settleLine_other fun e' he' hline => hnot (List.mem_map.mpr ⟨e', he', hline⟩)]
      rw [settleLine, getLine_modLine_self hn]
      exact ⟨rfl, rfl, rfl⟩
    · exact ih hd he (by rw [settleLine_length]; exact hn)

theorem mem_changedEntries : e ∈ changedEntries s es ↔
    e.line < 32 ∧ es.find? (fun d => d.line == e.line && d.sets (getLine s e.line) != getLine s e.line) = some e := by
  unfold changedEntries
  rw [List.mem_filterMap]
  constructor
  · rintro ⟨n, hn, hf⟩
    have hline := List.find?_some hf
    simp only [Bool.and_eq_true, beq_iff_eq] at hline
    obtain ⟨rfl, -⟩ := hline
    exact ⟨List.mem_range.mp hn, hf⟩
  · exact fun ⟨hn, hf⟩ => ⟨e.line, List.mem_range.mpr hn, hf⟩

theorem changedEntries_nodup (s : State) (es : List LineEntry) : ((changedEntries s es).map LineEntry.line).Nodup := by
  have hline (n : Nat) (e : LineEntry)
      (h : e ∈ es.find? fun d => d.line == n && d.sets (getLine s n) != getLine s n) : e.line = n := by
    have h := List.find?_some h
    simp only [Bool.and_eq_true, beq_iff_eq] at h
    exact h.1
  unfold changedEntries
  rw [List.map_filterMap]
  refine List.Nodup.filterMap (fun a a' b hb hb' => ?_) List.nodup_range
  obtain ⟨e, he, rfl⟩ := Option.map_eq_some_iff.mp hb
  obtain ⟨e', he', hee⟩ := Option.map_eq_some_iff.mp hb'
  rw [← hline a e he, ← hline a' e' he', hee]

/-- After the settling of the changed entries every listed line has its entry's settings. -/
theorem settled_setBy (hd : (es.map LineEntry.line).Nodup) (he : e ∈ es) (hn : e.line < 32)
    (hu : u.lines = s.lines) (hlen : s.lines.length = 32) :
    Line.SetBy e (getLine ((changedEntries s es).foldl settleLine u) e.line) := by
  have hunique {d : LineEntry} (hmem : d ∈ es) (hline : d.line = e.line) : d = e :=
    List.inj_on_of_nodup_map hd hmem he hline
  by_cases hsame : e.sets (getLine s e.line) = getLine s e.line
  · have hout : ∀ d ∈ changedEntries s es, d.line ≠ e.line := fun d hmem hline => by
      obtain ⟨-, hf⟩ := mem_changedEntries.mp hmem
      obtain rfl := hunique (List.mem_of_find?_eq_some hf) hline
      have h := List.find?_some hf
      simp [hsame] at h
    rw [getLine_foldl_settleLine_other hout, getLine_of_lines hu, ← hsame]
    exact ⟨rfl, rfl, rfl⟩
  · refine getLine_foldl_settleLine (changedEntries_nodup s es) (mem_changedEntries.mpr ⟨hn, ?_⟩) (by rw [hu, hlen]; exact hn)
    have hsome : (es.find? fun d => d.line == e.line && d.sets (getLine s e.line) != getLine s e.line).isSome := by
      rw [List.find?_isSome]
      exact ⟨e, he, by simp [hsame]⟩
    obtain ⟨d, hf⟩ := Option.isSome_iff_exists.mp hsome
    have hdline := List.find?_some hf
    simp only [Bool.and_eq_true, beq_iff_eq] at hdline
    rw [hf, hunique (List.mem_of_find?_eq_some hf) hdline.1]

/-- The lines after a LINES request: the changed entries are settled, and nothing else touches the lines (R156). -/
theorem applyLines_lines (es : List LineEntry) (s : State) : ∃ u : State, u.lines = s.lines ∧
    (applyLines es s).lines = ((changedEntries s es).foldl settleLine u).lines := by
  let u := (changedEntries s es).foldl letGoLine s
  refine ⟨u, foldl_keeps (P := fun v => v.lines = s.lines) (fun v e hv => ?_) _ rfl, ?_⟩
  · unfold letGoLine
    split
    · exact hv
    · dsimp only
      split <;> [exact overfillFall_keeps (lines_inner s.lines).toQuiet _ hv; exact hv]
  · let v := (changedEntries s es).foldl settleLine u
    have htake : ((changedEntries s es).foldl takeLine v).lines = v.lines :=
      foldl_keeps (P := fun w => w.lines = v.lines) (fun w e hw => by
        unfold takeLine
        split
        · dsimp only
          split <;> [exact overfillRise_keeps (lines_inner v.lines) _ hw; exact hw]
        · exact hw
        · exact hw) _ rfl
    have hall : (makeGateTest ((changedEntries s es).foldl takeLine v)).lines = v.lines :=
      (makeGateTest_lines _).trans htake
    unfold applyLines
    dsimp only
    split <;> [exact hall; exact (writeImage_lines _).trans hall]

end Sys2Proof.Machine

namespace Sys2Proof

open Machine

/-- Settles O54: each stage of the teardown takes away one kind of thing, and no later stage gives it back. -/
theorem teardownReleasesEverything : Obligations.TeardownReleasesEverything := by
  intro s tag code r hr
  refine ⟨getRelay_teardown s tag code, fun k hk e he => ?_, fun k hk e he => ?_, fun robot c hx hc hl => ?_,
    fun u hu => ?_⟩
  · rw [teardown_stackRecs hr] at hk; exact owner_orphanBin hk he
  · rw [teardown_stackRecs hr] at hk; exact noEntries_vacated tag r s k hk e he
  · have hmem : robot ∈ r.hopRobots ∨ robot ∈ r.laterTakers := by
      unfold Relay.hopRobots Relay.laterTakers
      obtain h | h | h := hx
      · exact .inl (by simp [h])
      · exact .inl (by simp [h])
      · exact .inr (by simpa using h)
    have hfree := disbanded_isFree hmem hc hl
    unfold IsFree getRobot at hfree
    rw [← teardown_robots (code := code) hr] at hfree
    exact hfree
  · have hu : u = situationChanged tag true (disbanded tag r s) := hu
    obtain ⟨q, hq, hcore⟩ := getRelay_disbanded hr
    obtain ⟨fl, k, hw, hflags, hor⟩ := situationChanged_record hq true
    have htick : (situationChanged tag true (disbanded tag r s)).tick = s.tick :=
      situationChanged_keeps (tick_inner s.tick) tag true tick_disbanded
    rw [Relay.core_flags hcore] at hflags hor
    rw [Relay.core_clock hcore] at hflags
    subst hu
    refine ⟨_, hw, htick, hflags, hor, ?_⟩
    rw [teardown_eq hr, hw, htick]
    rfl

/-- Settles O51. -/
theorem seedAndLinesRequests : Obligations.SeedAndLinesRequests := by
  intro s slot tag b ha
  refine ⟨fun i bins hi hdecl hcap hnodup hh hp hother hblocked => ⟨seed i bins s, ?_, ?_⟩,
    fun es hes hfit hlen => ⟨applyLines es s, ?_, fun e he => ?_⟩⟩
  · rw [runSlot_of_kind (k := .seed) rfl ha]
    simp only [RequestKind.run, requestSeed, hi, hdecl, hh, hp, hother, hnodup, Nat.not_lt.mpr hcap, Bool.not_true,
      Bool.false_eq_true, if_false, decide_true, Option.isSome_none, List.isEmpty_nil, Bool.or_self]
  · exact seed_clear (lt_of_declared fun hu => by simp [StackRec.declared, hu] at hdecl) hblocked bins
  · rw [runSlot_of_kind (k := .lines) rfl ha]
    simp only [RequestKind.run, requestLines, hes, hfit, if_true]
  · obtain ⟨hd, hlt⟩ := linesOfBody_entries hes
    obtain ⟨u, hu, hlines⟩ := applyLines_lines es s
    rw [getLine_of_lines hlines]
    exact settled_setBy hd he (hlt e he) hu hlen

end Sys2Proof

/-!
SUPPORT. The start of a hop (R40, R41), the intake of an order (R90), and what WITHDRAW and RULING decide (R93, R95).
-/

namespace Sys2Proof.Machine

variable {P : State → Prop} {s : State} {t : Tag} {r q : Relay} {x : Nat} {o : RelayOrder}

/-! ## Filling the take side -/

/-- A property that the filling of a relay's take side keeps: placements, the standby queues, the lending to the relay, and
its take side. -/
structure Filling (t : Tag) (P : State → Prop) : Prop extends Placing P where
  standby : ∀ s v, P s → P { s with standby := v }
  lend : ∀ s x, P s → P (lend x t s)
  take : ∀ s (f : Relay → Relay), (∀ r, ∃ k, f r = { r with take := k }) → P s → P (modRelay t f s)

theorem assignTaker_filling (h : Filling t P) (x : Nat) (hs : P s) : P (assignTaker t x s) :=
  goOnIdle_placing h.toPlacing t (h.take _ _ (fun _ => ⟨_, rfl⟩) (h.take _ _ (fun _ => ⟨_, rfl⟩) hs))

theorem drawStandby_filling (h : Filling t P) (hs : P s) : P (drawStandby t s) := by
  refine onRelay_keeps hs fun r _ => ?_
  split
  · exact hs
  · split
    · exact hs
    · exact assignTaker_filling h _ (h.lend _ _ (h.standby _ _ hs))

theorem fillTake_filling (h : Filling t P) (hs : P s) : P (fillTake t s) := by
  refine onRelay_keeps hs fun r _ => ?_
  split
  · exact assignTaker_filling h _ hs
  · exact drawStandby_filling h (h.take _ _ (fun _ => ⟨_, rfl⟩) hs)

/-! ## What a hop's start leaves -/

/-- A relay's core but for its take side. -/
def Relay.hopCore (r : Relay) : Relay := { r.core with take := emptyTake }

theorem Relay.hopCore_of_core (h : q.core = r.core) : q.hopCore = r.hopCore :=
  congrArg (fun w : Relay => { w with take := emptyTake }) h

/-- A relay is held with its core but for the take side. -/
def HopStands (r : Relay) (s : State) : Prop := ∃ q, getRelay s r.tag = some q ∧ q.hopCore = r.hopCore

theorem HopStands.modRelay {f : Relay → Relay} (hf : ∀ r, (f r).hopCore = r.hopCore) (hs : HopStands r s) :
    HopStands r (modRelay t f s) := by
  obtain ⟨q, hq, hcore⟩ := hs
  have htag : ∀ r, (f r).tag = r.tag := fun r => (congrArg Relay.tag (hf r) :)
  by_cases h : r.tag = t
  · subst h; exact ⟨f q, getRelay_modRelay_self hq f htag, (hf q).trans hcore⟩
  · exact ⟨q, (getRelay_modRelay_other h f htag).trans hq, hcore⟩

theorem hopStands_filling (r : Relay) (t : Tag) : Filling t (HopStands r) where
  outq _ _ hs := hs
  robots _ _ _ hs := hs
  relay _ _ _ hf _ hs := hs.modRelay fun w => Relay.hopCore_of_core (hf w)
  placeWait _ _ hs := hs
  reserve _ _ _ _ hs := hs
  standby _ _ hs := hs
  lend _ _ hs := hs
  take s f hf hs := hs.modRelay fun w => by obtain ⟨k, hk⟩ := hf w; rw [hk]; rfl

/-- A relay's record at the start of a hop (R40). -/
def Relay.atHop (k : Nat) (giver binding : Option Nat) (r : Relay) : Relay :=
  { r with
    hop := k, binding := binding, refused := none, giveRefusals := 0, liftRefusals := 0, take := emptyTake
    give := { state := .done, robot := giver, stepStack := none, timer := none } }

theorem startHop_eq (t : Tag) (k : Nat) (giver binding : Option Nat) (s : State) :
    startHop t k giver binding s = fillTake t (if giver.isSome then enterPlacing t (modRelay t (Relay.atHop k giver binding) s)
      else modRelay t (Relay.atHop k giver binding) s) := rfl

theorem startHop_filling (h : Filling t P) {k : Nat} {giver binding : Option Nat}
    (hs : P (modRelay t (Relay.atHop k giver binding) s)) : P (startHop t k giver binding s) := by
  rw [startHop_eq]
  refine fillTake_filling h ?_
  split <;> [exact enterPlacing_placing h.toPlacing t hs; exact hs]

/-- The record that a hop's start leaves, but for its sides (R40). -/
theorem startHop_record (hr : getRelay s t = some r) (k : Nat) (giver binding : Option Nat) :
    ∃ q, getRelay (startHop t k giver binding s) t = some q ∧ q.hopCore = (r.atHop k giver binding).hopCore := by
  have h0 : HopStands (r.atHop k giver binding) (modRelay t (Relay.atHop k giver binding) s) :=
    ⟨_, getRelay_tag hr ▸ getRelay_modRelay_self hr (Relay.atHop k giver binding), rfl⟩
  obtain ⟨q, hq, hcore⟩ := startHop_filling (hopStands_filling _ t) h0
  exact ⟨q, (getRelay_tag hr : r.tag = t) ▸ hq, hcore⟩

/-! ## Intake -/

/-- A robot is lent to a relay. -/
def IsLentTo (t : Tag) (x : Nat) (s : State) : Prop := ∃ c, getRobot s x = some c ∧ c.lentTo = .relay t

/-- A robot holds a bin. -/
def Holds (b : BinId) (x : Nat) (s : State) : Prop := ∃ c, getRobot s x = some c ∧ c.heldBin = some b

theorem robots_of_core {g : Robot → Robot} (hg : ∀ c, (g c).core = c.core) (s : State) (x : Nat) :
    getRobot { s with robots := s.robots.map g } x = (getRobot s x).map g :=
  find_map_id s.robots g (fun c => (congrArg Robot.id (hg c) :)) x

theorem getRobot_lend (y : Nat) (t : Tag) (s : State) (x : Nat) : getRobot (lend y t s) x = (getRobot s x).map fun c =>
    if x = y then { c with lentTo := .relay t, state := .lent } else c := getRobot_modRobot s y x _ fun _ => rfl

theorem lentTo_lend (hs : IsLentTo t x s) (y : Nat) : IsLentTo t x (lend y t s) := by
  obtain ⟨c, hc, hl⟩ := hs
  refine ⟨_, (getRobot_lend y _ s x).trans (congrArg (Option.map _) hc), ?_⟩
  dsimp only
  split <;> [rfl; exact hl]

theorem lentTo_of_lend {c : Robot} (hc : getRobot s x = some c) : IsLentTo t x (lend x t s) :=
  ⟨_, getRobot_modRobot_self hc _, rfl⟩

theorem holds_lend {b : BinId} (hs : Holds b x s) (y : Nat) (t : Tag) : Holds b x (lend y t s) := by
  obtain ⟨c, hc, hl⟩ := hs
  refine ⟨_, (getRobot_lend y _ s x).trans (congrArg (Option.map _) hc), ?_⟩
  dsimp only
  split <;> exact hl

theorem lentTo_filling (t : Tag) (x : Nat) : Filling t (IsLentTo t x) where
  outq _ _ hs := hs
  robots s g hg hs := by
    obtain ⟨c, hc, hl⟩ := hs
    exact ⟨g c, (robots_of_core hg s x).trans (congrArg (Option.map g) hc), (congrArg Robot.lentTo (hg c) :).trans hl⟩
  relay _ _ _ _ _ hs := hs
  placeWait _ _ hs := hs
  reserve _ _ _ _ hs := hs
  standby _ _ hs := hs
  lend _ y hs := lentTo_lend hs y
  take _ _ _ hs := hs

theorem holds_filling (b : BinId) (t : Tag) (x : Nat) : Filling t (Holds b x) where
  outq _ _ hs := hs
  robots s g hg hs := by
    obtain ⟨c, hc, hl⟩ := hs
    exact ⟨g c, (robots_of_core hg s x).trans (congrArg (Option.map g) hc), (congrArg Robot.heldBin (hg c) :).trans hl⟩
  relay _ _ _ _ _ hs := hs
  placeWait _ _ hs := hs
  reserve _ _ _ _ hs := hs
  standby _ _ hs := hs
  lend _ y hs := holds_lend hs y t
  take _ _ _ hs := hs

theorem relayCount_filling (n : Nat) (t : Tag) : Filling t fun s => s.relays.length = n where
  outq _ _ hs := hs
  robots _ _ _ hs := hs
  relay _ _ _ _ _ hs := (List.length_map ..).trans hs
  placeWait _ _ hs := hs
  reserve _ _ _ _ hs := hs
  standby _ _ hs := hs
  lend _ _ hs := hs
  take _ _ _ hs := (List.length_map ..).trans hs

/-- The state in which the order's record is listed, its origin claimed and its takers lent (R90 steps 1 to 3). -/
def claimed (o : RelayOrder) (slot : Nat) (s : State) : State :=
  (o.takers.filterMap id).foldl (fun s r => lend r o.tag s)
    (claimOrigin o { s with relays := s.relays ++ [o.record slot] })

/-- The giver of an order's first hop. -/
def RelayOrder.giver (o : RelayOrder) : Option Nat := match o.origin with | .robot r => some r | .stack _ => none

/-- The stack bound at an order's first hop. -/
def RelayOrder.bound (o : RelayOrder) : Option Nat := match o.origin with | .robot _ => none | .stack i => some i

theorem intake_eq (o : RelayOrder) (slot : Nat) (s : State) :
    intake o slot s = startHop o.tag 1 o.giver o.bound (situationChanged o.tag false (claimed o slot s)) := by
  unfold intake RelayOrder.giver RelayOrder.bound
  cases o.origin <;> rfl

/-- What an accepted order's robots are: declared (R88). -/
theorem declared_of_refusal (h : o.refusal s = none) (hx : x ∈ o.robots) : ∃ c, getRobot s x = some c := by
  unfold RelayOrder.refusal at h
  split at h
  · cases h
  · rename_i hall
    refine Option.ne_none_iff_exists'.mp fun hno => hall (List.any_eq_true.mpr ⟨x, hx, by rw [hno]; rfl⟩)

theorem claimOrigin_length (o : RelayOrder) (s : State) : (claimOrigin o s).relays.length = s.relays.length := by
  unfold claimOrigin adoptShuffle; split <;> simp [lend]

theorem foldl_lend_relays (l : List Nat) (t : Tag) (s : State) : (l.foldl (fun s r => lend r t s) s).relays = s.relays :=
  foldl_keeps (P := fun u => u.relays = s.relays) (f := fun s r => lend r t s) (fun _ _ h => h) l rfl

theorem getRelay_claimOrigin (hr : getRelay s t = some r) (hs : r.shuffle = none) (o : RelayOrder) :
    getRelay (claimOrigin o s) t = some r := by
  unfold claimOrigin
  split
  · exact hr
  · refine (find_map_tag s.relays (Relay.adopt o.bin o.tag (o.path.getD 1 0)) (fun _ => rfl) t).trans ?_
    rw [show s.relays.find? (fun r => r.tag == t) = some r from hr, Option.map_some, Relay.adopt, hs]
    exact congrArg some (by rw [Option.map_none, ← hs])

/-- The new record, after the claim of its origin and the lending of its takers. -/
theorem getRelay_claimed (hn : getRelay s o.tag = none) (slot : Nat) :
    getRelay (claimed o slot s) o.tag = some (o.record slot) := by
  have hadd : getRelay { s with relays := s.relays ++ [o.record slot] } o.tag = some (o.record slot) := by
    change (s.relays ++ [o.record slot]).find? (fun r => r.tag == o.tag) = _
    rw [List.find?_append, show s.relays.find? (fun r => r.tag == o.tag) = none from hn]
    simp [RelayOrder.record]
  refine Eq.trans ?_ (getRelay_claimOrigin hadd rfl o)
  unfold getRelay claimed
  rw [foldl_lend_relays]

theorem claimed_length (o : RelayOrder) (slot : Nat) (s : State) :
    (claimed o slot s).relays.length = s.relays.length + 1 := by
  unfold claimed
  rw [foldl_lend_relays, claimOrigin_length]
  simp

theorem declared_claimOrigin {c : Robot} (hc : getRobot s x = some c) (o : RelayOrder) :
    ∃ d, getRobot (claimOrigin o s) x = some d := by
  unfold claimOrigin
  split
  · rename_i y _
    exact ⟨_, (getRobot_modRobot (lend y o.tag s) y x (fun c => { c with heldBin := some o.bin }) fun _ => rfl).trans
      (congrArg (Option.map _) ((getRobot_lend y o.tag s x).trans (congrArg (Option.map _) hc)))⟩
  · exact ⟨c, hc⟩

/-- The origin robot is lent with the bin (R90 step 2). -/
theorem claimOrigin_robot {c : Robot} (hc : getRobot s x = some c) (ho : o.origin = .robot x) :
    IsLentTo o.tag x (claimOrigin o s) ∧ Holds o.bin x (claimOrigin o s) := by
  have hrec : getRobot (claimOrigin o s) x = some { c with lentTo := .relay o.tag, state := .lent, heldBin := some o.bin } := by
    unfold claimOrigin
    rw [ho]
    exact getRobot_modRobot_self (getRobot_modRobot_self hc _) _
  exact ⟨⟨_, hrec, rfl⟩, ⟨_, hrec, rfl⟩⟩

/-- Every robot of a list is lent to the relay that it is lent to in turn (R90 step 3). -/
theorem foldl_lend_lentTo {l : List Nat} (hx : x ∈ l) (hd : ∃ c, getRobot s x = some c) (t : Tag) :
    IsLentTo t x (l.foldl (fun s r => lend r t s) s) := by
  induction l generalizing s with
  | nil => cases hx
  | cons y l ih =>
    obtain ⟨c, hc⟩ := hd
    rw [List.foldl_cons]
    obtain rfl | hx := List.mem_cons.mp hx
    · exact foldl_keeps (P := IsLentTo t x) (fun _ z h => lentTo_lend h z) l (lentTo_of_lend hc)
    · exact ih hx ⟨_, (getRobot_lend y _ s x).trans (congrArg (Option.map _) hc)⟩

theorem claimed_lentTo (hx : x ∈ o.robots) (hd : ∃ c, getRobot s x = some c) (slot : Nat) :
    IsLentTo o.tag x (claimed o slot s) := by
  obtain ⟨c, hc⟩ := hd
  unfold RelayOrder.robots at hx
  obtain hx | hx := List.mem_append.mp hx
  · split at hx
    · rename_i y ho
      obtain rfl := List.mem_singleton.mp hx
      exact foldl_keeps (P := IsLentTo o.tag x) (fun _ z h => lentTo_lend h z) _ (claimOrigin_robot (by exact hc) ho).1
    · cases hx
  · exact foldl_lend_lentTo hx (declared_claimOrigin (by exact hc) o) o.tag

theorem claimed_holds (ho : o.origin = .robot x) (hd : ∃ c, getRobot s x = some c) (slot : Nat) :
    Holds o.bin x (claimed o slot s) := by
  obtain ⟨c, hc⟩ := hd
  exact foldl_keeps (P := Holds o.bin x) (fun _ z h => holds_lend h z o.tag) _ (claimOrigin_robot (by exact hc) ho).2

/-! ## Handing on -/

theorem passOn_next (hr : getRelay s t = some r) (he : r.endPending = none) (hh : r.hop < r.hops) :
    passOn t s = startHop t (r.hop + 1) r.take.robot none (toTail t s) := by
  unfold passOn
  rw [onRelay_some _ hr]
  exact (if_neg (by simp [he])).trans (if_pos hh)

theorem passOn_last (hr : getRelay s t = some r) (he : r.endPending = none) (hh : r.hops ≤ r.hop) :
    passOn t s = endRelay t .delivered s := by
  unfold passOn
  rw [onRelay_some _ hr]
  exact (if_neg (by simp [he])).trans (if_neg (Nat.not_lt.mpr hh))

end Sys2Proof.Machine

namespace Sys2Proof

open Machine

/-- Settles O52: the record is listed, the robots are lent, and the first hop's start leaves both. -/
theorem relayIntakeMakesRecord : Obligations.RelayIntakeMakesRecord := by
  intro s slot tag b o ha hb href
  have htag : o.tag = tag := by
    unfold RelayOrder.ofBody at hb
    split at hb
    · dsimp only at hb
      split at hb <;> cases hb
      rfl
    · cases hb
  let v := situationChanged o.tag false (claimed o slot s)
  obtain ⟨fl, k, hv, -, -⟩ := situationChanged_record (getRelay_claimed (refusal_none href).2 slot) false
  obtain ⟨q, hq, hcore⟩ := startHop_record hv 1 o.giver o.bound
  have hend {P : State → Prop} (h : Filling o.tag P) (hs : P (modRelay o.tag (Relay.atHop 1 o.giver o.bound) v)) :
      P (intake o slot s) := by rw [intake_eq]; exact startHop_filling h hs
  have hrobots (u : State) : u.robots = (claimed o slot s).robots → ∀ x, getRobot u x = getRobot (claimed o slot s) x :=
    fun h x => by unfold getRobot; rw [h]
  have hvrobots := hrobots v (situationChanged_robots ..)
  refine ⟨intake o slot s, q, ?_, ?_, ?_, (congrArg Relay.slot hcore :), (congrArg Relay.bin hcore :),
    (congrArg Relay.cls hcore :), (congrArg Relay.budget hcore :), (congrArg Relay.due hcore :),
    (congrArg Relay.reference hcore :), (congrArg Relay.timingSet hcore :), (congrArg Relay.strictLoad hcore :),
    (congrArg Relay.allowShuffle hcore :), (congrArg Relay.abortOnExposure hcore :), (congrArg Relay.path hcore :),
    (congrArg Relay.takers hcore :), (congrArg Relay.hop hcore :), (congrArg Relay.endPending hcore :),
    fun x hx => ?_, fun x hx => ?_⟩
  · rw [runSlot_of_kind (k := .relay) rfl ha]
    simp only [RequestKind.run, requestRelay, hb, href]
  · refine hend (relayCount_filling _ _) ((List.length_map ..).trans ?_)
    have hcount : v.relays.length = (claimed o slot s).relays.length :=
      situationChanged_of (P := fun u => u.relays.length = (claimed o slot s).relays.length)
        (fun _ _ h => (List.length_map ..).trans h) (fun _ _ h => h)
        (fun u n h => (congrArg List.length (notify_relays u n)).trans h) false rfl
    exact hcount.trans (claimed_length o slot s)
  · rw [intake_eq, ← htag]; exact hq
  · have hlent := claimed_lentTo hx (declared_of_refusal href hx) slot
    unfold IsLentTo at hlent
    rw [← hvrobots] at hlent
    exact htag ▸ hend (lentTo_filling o.tag x) hlent
  · have hmem : x ∈ o.robots := by simp [RelayOrder.robots, hx]
    have hheld := claimed_holds hx (declared_of_refusal href hmem) slot
    unfold Holds at hheld
    rw [← hvrobots] at hheld
    exact hend (holds_filling o.bin o.tag x) hheld

/-- Settles O53: an active relay's end is decided at once or pending, and a ruling decides a side in T_QUERY alone. -/
theorem withdrawAndRulingAct : Obligations.WithdrawAndRulingAct := by
  intro s slot own tag b ha
  refine ⟨fun hb => ⟨fun hn => ?_, fun r hr he => ⟨_, ?_, endRelay_ending _ (notEnding_of hr he)⟩⟩,
    fun r accept hb hr => ⟨fun hst => ?_, fun hst he => ?_⟩⟩
  · rw [runSlot_of_kind (k := .withdraw) rfl ha]
    simp only [RequestKind.run, requestWithdraw, hb, hn, Option.isSome_none, Bool.false_eq_true, if_false]
  · rw [runSlot_of_kind (k := .withdraw) rfl ha]
    simp only [RequestKind.run, requestWithdraw, hb, hr, Option.isSome_some, if_true]
  · rw [runSlot_of_kind (k := .ruling) rfl ha]
    simp only [RequestKind.run, requestRuling, hb, hr, hst, if_false]
  · have hdone : getRelay (enterTake tag .done s) tag =
        some { r with take := { r.take with state := .done, timer := none } } := getRelay_modRelay_self hr _
    refine ⟨if accept then passOn tag (enterTake tag .done s) else endRelay tag .loadRejected s, ?_, fun hacc => ?_,
      fun hacc hh => ?_, fun hacc hh => ?_⟩
    · rw [runSlot_of_kind (k := .ruling) rfl ha]
      simp only [RequestKind.run, requestRuling, hb, hr, hst, if_true]
    · rw [hacc]; exact endRelay_ending _ (notEnding_of hr he)
    · rw [hacc, if_pos rfl, passOn_last hdone he hh]
      exact endRelay_ending _ (notEnding_of hdone he)
    · obtain ⟨q, hq, hcore⟩ := startHop_record ((getRelay_toTail ..).trans hdone) (r.hop + 1) r.take.robot none
      rw [hacc, if_pos rfl, passOn_next hdone he hh]
      exact ⟨q, hq, (congrArg Relay.hop hcore :), (congrArg (fun w => w.give.robot) hcore :),
        (congrArg Relay.giveRefusals hcore :), (congrArg Relay.liftRefusals hcore :),
        (congrArg Relay.endPending hcore :).trans he⟩

end Sys2Proof

/-!
SUPPORT. The blocked flag of a stack (R3): it changes with its overfill line alone, through shuffles, SUSPECT entries and the
ends of relays; and what a debounced change leaves of the lines, the flag and hold (R150 to R152).
-/

namespace Sys2Proof.Machine

variable {s u : State} {i n x : Nat} {b : Bool} {t p : Tag} {bus : Bus} {c : Candidate}

/-! ## The blocked flag -/

theorem BlockedIs.of_stackRecs (h : u.stackRecs = s.stackRecs) (hs : BlockedIs i b s) : BlockedIs i b u :=
  (congrArg StackRec.blocked (getStack_of_stackRecs h i)).trans hs

theorem BlockedIs.modStack {f : StackRec → StackRec} (j : Nat) (hf : ∀ k, (f k).blocked = k.blocked)
    (hs : BlockedIs i b s) : BlockedIs i b (modStack j f s) := by
  unfold BlockedIs at hs ⊢
  rw [getStack_modStack]
  split <;> [exact (hf _).trans hs; exact hs]

theorem blockedIs_placing (i : Nat) (b : Bool) : Placing (BlockedIs i b) := (blockedIs_handing i b).toPlacing

theorem takeJoin_blocked (j : Nat) (head : Bool) (hs : BlockedIs i b s) : BlockedIs i b (takeJoin t j head s) := by
  refine onRelay_keeps hs fun r _ => ?_
  split
  · exact hs
  · dsimp only
    split
    · exact arbiter_handing (blockedIs_handing i b) j
        (hs.modStack j (f := fun k => { k with waits := if head then _ else _ }) fun _ => rfl)
    · exact hs

theorem cancelBin_handing {P : State → Prop} (h : Handing P) (bin : BinId) (hs : P s) : P (cancelBin bin s) := by
  unfold cancelBin; split <;> [exact cancelReservation_handing h _ _ hs; exact hs]

theorem endRelay_blocked (t : Tag) (code : Code) (hs : BlockedIs i b s) : BlockedIs i b (endRelay t code s) :=
  endRelay_tearing (blockedIs_tearing i b t) code hs

theorem setCarried_blocked (m : Option Tag) (c : Bool) (hs : BlockedIs i b s) : BlockedIs i b (setCarried m c s) := by
  unfold setCarried; split <;> exact hs

theorem failShuffle_blocked (p : Tag) (code : Code) (hs : BlockedIs i b s) : BlockedIs i b (failShuffle p code s) := by
  have h := blockedIs_handing i b
  refine onShuffle_keeps hs fun r sh robot => endRelay_blocked p _ ?_
  have hdropped : BlockedIs i b (dropHold sh.source robot (cancelBin sh.movedBin
      (dropWaits (fun e => e.robot == robot) (releaseAccess robot s)))) :=
    dropHold_handing h _ _ (cancelBin_handing h _ (dropWaits_handing h _ (releaseAccess_handing h _ hs)))
  have hcarried : BlockedIs i b (setCarried sh.movedRelay false (enterTake p .done (clearShuffle p
      (dropHold sh.source robot (cancelBin sh.movedBin
        (dropWaits (fun e => e.robot == robot) (releaseAccess robot s))))))) := setCarried_blocked _ _ hdropped
  exact onMoved_of hcarried fun q _ => endRelay_blocked q code hcarried

theorem joinShuffleSet_blocked {sh : Shuffle} {j : Nat} {s' : State} (hs : BlockedIs i b s)
    (hj : joinShuffleSet p j sh x s = some s') : BlockedIs i b s' := by
  unfold joinShuffleSet at hj
  dsimp only at hj
  split at hj
  · cases hj
    exact arbiter_handing (blockedIs_handing i b) j
      (hs.modStack j (f := fun k => { k with waits := k.waits ++ [_] }) fun _ => rfl)
  · cases hj

theorem goBack_blocked (p : Tag) (hs : BlockedIs i b s) : BlockedIs i b (goBack p s) := by
  refine onShuffle_keeps hs fun r sh robot => ?_
  have h1 : BlockedIs i b (modShuffle p (fun sh => { sh with target := none, returning := true })
      (convertHold sh.source robot sh.movedBin sh.boundDistrict s)) :=
    hs.modStack sh.source (f := fun k => { k with pend := _ }) fun _ => rfl
  dsimp only
  split <;> [exact joinShuffleSet_blocked h1 ‹_›; exact failShuffle_blocked p _ h1]

theorem placeTarget_blocked (p : Tag) (hs : BlockedIs i b s) : BlockedIs i b (placeTarget p s) := by
  refine onShuffle_keeps hs fun r sh robot => ?_
  split
  · exact hs
  · split
    · rename_i h
      unfold reserve at h
      split at h
      · cases h
        exact hs.modStack _ (f := fun k => { k with pend := k.pend ++ [_] }) fun _ => rfl
      · cases h
    · exact hs

theorem joinTarget_blocked (m : Nat) (p : Tag) (hs : BlockedIs i b s) : BlockedIs i b (joinTarget m p s) := by
  induction m generalizing s with
  | zero => exact goBack_blocked p hs
  | succ m ih =>
    refine onShuffle_keeps hs fun r sh robot => ?_
    split
    · exact goBack_blocked p hs
    · split
      · exact joinShuffleSet_blocked hs ‹_›
      · refine ih (placeTarget_blocked p ?_)
        exact cancelReservation_handing (blockedIs_handing i b) _ _ hs

theorem lostTarget_blocked (p : Tag) (j : Nat) (hs : BlockedIs i b s) : BlockedIs i b (lostTarget p j s) := by
  refine onShuffle_keeps hs fun r sh robot => ?_
  have h1 : BlockedIs i b (placeTarget p (excludeTarget p j s)) := placeTarget_blocked p hs
  split <;> [exact h1; exact joinTarget_blocked _ p h1; exact hs]

theorem handBack_blocked (j : Nat) (e : PendEntry) (hs : BlockedIs i b s) : BlockedIs i b (handBack j s e) := by
  unfold handBack
  split
  · exact hs
  · split
    · refine onShuffle_keeps hs fun r sh robot => ?_
      split
      · exact lostTarget_blocked _ j hs
      · split <;> [exact failShuffle_blocked _ _ hs; exact hs]
    · split <;> [exact giveReservationLost_placing (blockedIs_placing i b) _ j hs; exact hs]

theorem waitHandBack_blocked (j : Nat) (e : Access) (hs : BlockedIs i b s) : BlockedIs i b (waitHandBack j s e) := by
  unfold waitHandBack; split
  · refine onRelay_keeps hs fun r _ => ?_
    split <;> [exact takeJoin_blocked j false hs; exact hs]
  · exact hs

theorem suspectCause_blocked (j : Nat) (c : Cause) (t : Tag) (x : Nat) (bin : BinId) (hs : BlockedIs i b s) :
    BlockedIs i b (suspectCause j c t x bin s) := by
  unfold suspectCause
  split
  · have hnoted : BlockedIs i b (suspectNoted j c t x bin s) :=
      (hs.modStack j (f := fun k => { k with state := .suspect }) fun _ => rfl).of_stackRecs (notify_stackRecs ..)
    have hback : BlockedIs i b (suspectHandedBack j (suspectNoted j c t x bin s)) :=
      foldl_keeps (fun _ e => handBack_blocked j e) _
        (hnoted.modStack j (f := fun k => { k with pend := k.pend.filter fun e => !cancelled k e }) fun _ => rfl)
    rw [enterSuspect_eq]
    exact retryPlacement_placing (blockedIs_placing i b) (foldl_keeps (fun _ e => waitHandBack_blocked j e) _
      (hback.modStack j (f := fun k => { k with waits := [] }) fun _ => rfl))
  · exact hs

/-- An overfill line that rises blocks its stack, whatever the entry into SUSPECT brings about (R3). -/
theorem overfillRise_blocked (hi : i < s.stackRecs.length) : BlockedIs i true (overfillRise i s) := by
  have h1 : BlockedIs i true (modStack i (fun k => { k with blocked := true }) s) :=
    congrArg StackRec.blocked (getStack_modStack_self _ hi)
  refine stackChanged_handing (blockedIs_handing i true) i ?_
  unfold overfillTest
  split <;> [exact suspectCause_blocked _ _ _ _ _ h1; exact h1]

theorem overfillFall_blocked (hi : i < s.stackRecs.length) : BlockedIs i false (overfillFall i s) :=
  stackChanged_handing (blockedIs_handing i false) i (congrArg StackRec.blocked (getStack_modStack_self _ hi))

theorem actDeferred_blocked (hs : BlockedIs i b s) : BlockedIs i b (actDeferred s) :=
  foldl_keeps (fun _ t hs => onRelay_keeps hs fun r _ => by
    split <;> [exact endRelay_blocked t _ hs; exact hs]) _ (s := { s with deferred := [] }) hs

/-! ## The gate test -/

/-- The gate test reads of each line its function and its level. -/
theorem gateTest_eq (s : State) : gateTest s =
    (!((s.lines.map fun l => (l.fn, l.level)).filter fun l => l.1 == .gate).isEmpty &&
      ((s.lines.map fun l => (l.fn, l.level)).filter fun l => l.1 == .gate).all Prod.snd) := by
  unfold gateTest gateLines
  rw [List.filter_map, List.isEmpty_map, List.all_map]
  rfl

theorem gateTest_modLine {f : Line → Line} (hf : ∀ l, (f l).fn = l.fn) (hl : ∀ l, (f l).level = l.level) :
    gateTest (modLine n f s) = gateTest s := by
  rw [gateTest_eq, gateTest_eq]
  have hmap : (s.lines.modify n f).map (fun l => (l.fn, l.level)) = s.lines.map fun l => (l.fn, l.level) := by
    refine List.ext_getElem (by simp) fun j h1 h2 => ?_
    simp only [List.getElem_map, List.getElem_modify]
    split <;> [rw [hf, hl]; rfl]
  rw [show (modLine n f s).lines = s.lines.modify n f from rfl, hmap]

theorem gateTest_of_lines (h : u.lines = s.lines) : gateTest u = gateTest s := by
  unfold gateTest gateLines; rw [h]

/-- No end of a relay turns hold OFF. -/
theorem hold_inner : Inner fun u => u.hold = true := by
  constructor
  case toQuiet => constructor <;> (intros; assumption)
  case notify => exact fun s n hs => (portless_field State.hold (notify_portless s n) fun _ => rfl).trans hs
  case endSlot => exact fun s slot t b o hs =>
    (portless_field State.hold (endRelaySlot_portless s slot t b o) fun _ => rfl).trans hs
  all_goals intros; assumption

/-! ## A debounced change -/

/-- The candidate of a line whose raw level has moved on since its change came due (log 8). -/
def Line.again (l : Line) (level : Bool) : Option Candidate :=
  if l.raw = level then none else some (freshCandidate l.raw)

/-- The state in which a candidate's level is the debounced level and the notice has been appended (R150). -/
def changed (n : Nat) (level : Bool) (s : State) : State :=
  announced n level (getLine s n) (modLine n (fun l => { l with level := level, candidate := none }) s)

theorem changed_lines (n : Nat) (level : Bool) (s : State) :
    (changed n level s).lines = (modLine n (fun l => { l with level := level, candidate := none }) s).lines :=
  announced_lines ..

theorem announced_stackRecs (level : Bool) (l : Line) (s : State) :
    (announced n level l s).stackRecs = s.stackRecs := by
  have h := portless_field State.stackRecs (writeImage_portless s) fun _ => rfl
  unfold announced
  split <;> [exact (notify_stackRecs ..).trans h; exact h]

/-- A due change in its order: the change, the function, the candidate of a raw level that has moved on (R150, log 8). -/
theorem debounceExpired_eq (hc : (getLine s n).candidate = some c) (hd : c.due = true) :
    debounceExpired n s = modLine n (fun l => { l with candidate := (getLine s n).again c.level })
      (lineActs (getLine s n).fn c.level (changed n c.level s)) := by
  have hlt : n < s.lines.length := line_lt (.inr (by rw [hc]; nofun))
  have hself := getLine_modLine_self hlt fun l : Line => { l with candidate := l.again c.level }
  have hexp : debounceExpired n s = modLine n (fun l => { l with candidate := (getLine s n).again c.level })
      (debounced n c.level (modLine n (fun l => { l with candidate := l.again c.level }) s)) := by
    unfold debounceExpired
    rw [hc]
    refine (if_pos hd).trans ?_
    refine congrArg (fun a : Option Candidate => modLine n (fun l => { l with candidate := a }) _) ?_
    exact congrArg Line.candidate hself
  rw [hexp, debounced_eq, hself, modLine_modLine]
  rfl

theorem execDebounceExpiry_eq (hb : bus.reset = none) (hn : n < 32) (hc : (getLine s n).candidate = some c)
    (hd : c.due = true) : exec (.debounceExpiry n bus) s =
      .next (endBus (actDeferred (modLine n (fun l => { l with candidate := (getLine s n).again c.level })
        (lineActs (getLine s n).fn c.level (changed n c.level (beginBus bus s)))))) :=
  (if_pos hn).trans (withBus_next hb (congrArg actDeferred (debounceExpired_eq (s := beginBus bus s) hc hd)))

/-- The function of an OVERFILL line gives its stack's blocked flag the level (R151). -/
theorem lineActs_blocked (level : Bool) (hi : i < s.stackRecs.length) :
    BlockedIs i level (lineActs (.overfill i) level s) := by
  cases level with
  | true => exact overfillRise_blocked hi
  | false => exact overfillFall_blocked hi

end Sys2Proof.Machine

namespace Sys2Proof

open Machine

/-- Settles O40: the change in its order, and what the function and the expiries behind it leave. -/
theorem debounceExpiryChangesLevel : Obligations.DebounceExpiryChangesLevel := by
  refine ⟨fun s n bus c hb hn hlen hc hd => ⟨_, execDebounceExpiry_eq hb hn hc hd, ?_⟩,
    fun s n bus l c u v hb hn hl hc hd hu hv => ?_⟩
  · let v := changed n c.level (beginBus bus s)
    let w := lineActs (getLine s n).fn c.level v
    let f : Line → Line := fun l => { l with candidate := (getLine s n).again c.level }
    have hlt : n < s.lines.length := by omega
    have hwlines : w.lines = (modLine n (fun l => { l with level := c.level, candidate := none }) s).lines :=
      (lineActs_lines ..).trans (changed_lines n c.level (beginBus bus s))
    have hwlt : n < w.lines.length := by rw [hwlines]; simpa [modLine] using hlt
    have hlines (j : Nat) : getLine (endBus (actDeferred (modLine n f w))) j = getLine (modLine n f w) j :=
      getLine_of_lines (actDeferred_lines _) j
    refine ⟨fun j hj => ?_, ?_, fun i hfn hi => ?_, fun hfn hgate => ?_⟩
    · rw [hlines, getLine_modLine_other hj, getLine_of_lines hwlines, getLine_modLine_other hj]
    · rw [hlines, getLine_modLine_self hwlt, getLine_of_lines hwlines, getLine_modLine_self hlt]
      rfl
    · have hvi : i < v.stackRecs.length := by
        rw [show v.stackRecs = s.stackRecs from announced_stackRecs ..]; exact hi
      have hw : BlockedIs i c.level w := by unfold w; rw [hfn]; exact lineActs_blocked c.level hvi
      exact actDeferred_blocked (s := modLine n f w) hw
    · have hw : gateTest w = true := by
        rw [← gateTest_modLine (n := n) (f := f) (fun _ => rfl) fun _ => rfl,
          ← gateTest_of_lines (actDeferred_lines (modLine n f w))]
        exact hgate
      have hhold : w.hold = true := by
        unfold w at hw ⊢
        rw [hfn] at hw ⊢
        exact makeGateTest_hold ((gateTest_of_lines (makeGateTest_lines v)).symm.trans hw)
      exact actDeferred_keeps hold_inner (s := modLine n f w) hhold
  · subst hl
    rw [execDebounceExpiry_eq hb hn hc hd, hv, hu]
    rfl

end Sys2Proof

/-!
SUPPORT. The entry into SUSPECT of a stack on which no shuffle's reservation is cancelled (R18): what the hand-backs leave of
the stack's record, and who joins its wait list again.
-/

namespace Sys2Proof.Machine

variable {P : State → Prop} {s u : State} {i x : Nat} {t : Tag} {r q : Relay} {k : StackRec} {e : Access} {b : BinId}

/-! ## The kept reservation -/

/-- The reservation that an entry into SUSPECT keeps is that of the bin being set down (R18 step 3). -/
theorem cancelled_bin_iff {o : Option Tag} {d : Option Nat} : cancelled k (.bin b o d) = false ↔ setDownPends k b := by
  unfold cancelled keptBin setDownPends
  cases k.holder with
  | none => simp
  | some h => cases hp : h.purpose.isSet <;> simp [hp]

/-- A pending entry stays when it is a blank hold or the reservation of the bin being set down. -/
theorem cancelled_iff {e : PendEntry} : cancelled k e = false ↔ ∀ b o d, e = .bin b o d → setDownPends k b := by
  cases e with
  | bin b o d =>
    refine cancelled_bin_iff.trans ⟨fun h b' o' d' he => ?_, fun h => h b o d rfl⟩
    cases he; exact h
  | hold o y => exact iff_of_true rfl nofun

/-! ## The hand-back of reservations -/

/-- The tags of the relays in the order held, each with its shuffle part. -/
def ShufflesAre (l : List (Tag × Option Shuffle)) (s : State) : Prop := (s.relays.map fun r => (r.tag, r.shuffle)) = l

theorem shufflesAre_placing (l : List (Tag × Option Shuffle)) : Placing (ShufflesAre l) where
  outq _ _ hs := hs
  robots _ _ _ hs := hs
  relay s t f hf _ hs := by
    refine Eq.trans ?_ hs
    rw [modRelay, List.map_map]
    refine List.map_congr_left fun r _ => ?_
    rw [Function.comp_apply]
    split
    · rw [Relay.core_tag (hf r), Relay.core_shuffle (hf r)]
    · rfl
  placeWait _ _ hs := hs
  reserve _ _ _ _ hs := hs

theorem shufflingRelay_of_shuffles {l : List (Tag × Option Shuffle)} (hs : ShufflesAre l s) (b : BinId) :
    shufflingRelay s b = (l.find? fun p => p.2.any fun sh => sh.movedBin == b).map Prod.fst := by
  rw [← hs, List.find?_map, Option.map_map]
  rfl

theorem handBack_placing (h : Placing P) {e : PendEntry} (he : ∀ b o d, e = .bin b o d → shufflingRelay s b = none)
    (i : Nat) (hs : P s) : P (handBack i s e) := by
  cases e with
  | hold o y => exact hs
  | bin b o d =>
    unfold handBack
    dsimp only
    rw [he b o d rfl]
    cases o with
    | none => exact hs
    | some t => exact giveReservationLost_placing h t i hs

/-- Reservations of no shuffle are handed back without a change of any shuffle part. -/
theorem handBacks_placing (h : Placing P) {l : List PendEntry}
    (hl : ∀ b o d, PendEntry.bin b o d ∈ l → shufflingRelay s b = none) (i : Nat) (hs : P s) :
    P (l.foldl (handBack i) s) := by
  induction l generalizing s with
  | nil => exact hs
  | cons e l ih =>
    have he : ∀ b o d, e = .bin b o d → shufflingRelay s b = none := fun b o d hb =>
      hl b o d (hb ▸ List.mem_cons_self)
    have hsame : ShufflesAre (s.relays.map fun r => (r.tag, r.shuffle)) (handBack i s e) :=
      handBack_placing (shufflesAre_placing _) he i rfl
    refine ih (fun b o d hb => ?_) (handBack_placing h he i hs)
    rw [shufflingRelay_of_shuffles hsame, ← shufflingRelay_of_shuffles (s := s) rfl]
    exact hl b o d (List.mem_cons_of_mem _ hb)

/-- The record of a stack that is not ACTIVE stands while placements are made: none of them picks it (R24). -/
theorem record_placing (i : Nat) (hk : k.state ≠ .active) : Placing fun s => getStack s i = k where
  outq _ _ hs := hs
  robots _ _ _ hs := hs
  relay _ _ _ _ _ hs := hs
  placeWait _ _ hs := hs
  reserve s j e ho hs := by
    rw [getStack_modStack_other _ _ fun hij => ?_]
    · exact hs
    · subst hij
      rw [hs] at ho
      simp [StackRec.open, hk] at ho

/-! ## The hand-back of wait entries -/

/-- The entry with which a taker joins again. -/
def rejoined (e : Access) (b : BinId) : Access := { robot := e.robot, purpose := .take, tag := e.tag, bin := b }

/-- The relay's taker whose entry is removed is in T_WAIT or T_BURIED (R56). -/
def Waits (r : Relay) (e : Access) : Prop :=
  r.take.robot = some e.robot ∧ (r.take.state = .wait ∨ r.take.state = .buried)

theorem getRelay_enterTake_other (h : t ≠ e.tag) (st : TakeState) : getRelay (enterTake e.tag st s) t = getRelay s t :=
  getRelay_modRelay_other h _ fun _ => rfl

/-- A removed entry whose taker does not wait for its bin is dropped. -/
theorem waitHandBack_idle (h : e.purpose = .take → ∀ r, getRelay s e.tag = some r → ¬Waits r e) (i : Nat) :
    waitHandBack i s e = s := by
  unfold waitHandBack
  split
  · rename_i hp
    cases hr : getRelay s e.tag with
    | none => exact onRelay_none _ hr
    | some r => exact (onRelay_some _ hr).trans (if_neg (h hp r hr))
  · rfl

theorem joinWaits_state (head : Bool) (e : Access) :
    (getStack (joinWaits i head e s) i).state = (getStack s i).state := by
  rw [joinWaits, getStack_modStack]; split <;> rfl

/-- A taker's join at a stack that is not ACTIVE is followed by no grant (R50). -/
theorem takeJoin_closed (hc : (getStack s i).state ≠ .active) (hr : getRelay s t = some r) (hx : r.take.robot = some x)
    (head : Bool) : ∃ st, takeJoin t i head s = enterTake t st
      (if r.endPending.isNone && joinAccepted s i { robot := x, purpose := .take, tag := t, bin := r.bin } then
        joinWaits i head { robot := x, purpose := .take, tag := t, bin := r.bin } s else s) := by
  unfold takeJoin
  rw [onRelay_some _ hr]
  dsimp only
  rw [hx]
  dsimp only
  split
  · refine ⟨_, arbiter_of_none (arbiterPick_of_closed (.inr ?_))⟩
    exact (joinWaits_state head _).symm ▸ hc
  · exact ⟨_, rfl⟩

/-- A waiting taker joins a stack that is not ACTIVE again, or stands ready (R56). -/
theorem waitHandBack_waits (hp : e.purpose = .take) (hr : getRelay s e.tag = some r) (hw : Waits r e)
    (hc : (getStack s i).state ≠ .active) : ∃ st, waitHandBack i s e = enterTake e.tag st
      (if r.endPending.isNone && joinAccepted s i (rejoined e r.bin) then
        joinWaits i false (rejoined e r.bin) (enterTake e.tag .ready s) else enterTake e.tag .ready s) := by
  have hback : waitHandBack i s e = takeJoin e.tag i false (enterTake e.tag .ready s) := by
    unfold waitHandBack
    rw [if_pos hp]
    exact (onRelay_some _ hr).trans (if_pos hw)
  obtain ⟨m, hready⟩ : ∃ m, getRelay (enterTake e.tag .ready s) e.tag =
      some { r with take := { r.take with state := .ready, timer := m } } := ⟨_, getRelay_modRelay_self hr _⟩
  rw [hback]
  exact takeJoin_closed (s := enterTake e.tag .ready s) hc hready hw.1 false

/-- A hand-back leaves the record of every relay but that of a taker that waits. -/
theorem waitHandBack_relay (hc : (getStack s i).state ≠ .active) (hr : getRelay s t = some r)
    (h : e.tag = t → r.take.robot ≠ some e.robot) : getRelay (waitHandBack i s e) t = getRelay s t := by
  by_cases hact : e.purpose = .take ∧ ∃ q, getRelay s e.tag = some q ∧ Waits q e
  · obtain ⟨hp, q, hq, hw⟩ := hact
    have ht : t ≠ e.tag := by
      rintro rfl
      cases hr.symm.trans hq
      exact h rfl hw.1
    obtain ⟨st, hst⟩ := waitHandBack_waits hp hq hw hc
    rw [hst, getRelay_enterTake_other ht]
    split <;> exact getRelay_enterTake_other ht _
  · rw [waitHandBack_idle fun hp q hq hw => hact ⟨hp, q, hq, hw⟩]

/-- A hand-back leaves a stack that is not ACTIVE as it is, or adds the taker's entry at the tail of its wait list. -/
theorem waitHandBack_record (hc : (getStack s i).state ≠ .active) (e : Access) :
    getStack (waitHandBack i s e) i = getStack s i ∨ ∃ b, e.purpose = .take ∧ (getStack s i).rests b = true ∧
      getStack (waitHandBack i s e) i =
        { getStack s i with waits := (getStack s i).waits ++ [rejoined e b] } := by
  by_cases hact : e.purpose = .take ∧ ∃ q, getRelay s e.tag = some q ∧ Waits q e
  · obtain ⟨hp, q, hq, hw⟩ := hact
    obtain ⟨st, hst⟩ := waitHandBack_waits hp hq hw hc
    rw [hst]
    split
    · rename_i ha
      have hj := (Bool.and_eq_true_iff.mp ha).2
      exact .inr ⟨q.bin, hp, (joinAccepted_state hj).2.1 rfl, getStack_joinWaits hj⟩
    · exact .inl rfl
  · exact .inl (by rw [waitHandBack_idle fun hp q hq hw => hact ⟨hp, q, hq, hw⟩])

/-- The entries with which takers of a list have joined again. -/
structure Rejoins (k : StackRec) (l w : List Access) : Prop where
  robots : (w.map Access.robot).Sublist (l.map Access.robot)
  entries : ∀ x ∈ w, x.purpose = .take ∧ k.rests x.bin = true ∧
    ∃ e ∈ l, e.purpose = .take ∧ e.robot = x.robot ∧ e.tag = x.tag

/-- What the hand-back of a wait list leaves of a stack that is not ACTIVE: entries of its takers behind those that stand. -/
theorem waitHandBacks_record (l : List Access) (hk : getStack s i = k) (hc : k.state ≠ .active) :
    ∃ w, getStack (l.foldl (waitHandBack i) s) i = { k with waits := k.waits ++ w } ∧ Rejoins k l w := by
  induction l generalizing s k with
  | nil => exact ⟨[], by simpa using hk, ⟨List.Sublist.refl _, nofun⟩⟩
  | cons e l ih =>
    have hweak {w : List Access} (h : Rejoins k l w) : Rejoins k (e :: l) w :=
      ⟨h.robots.cons _, fun y hy => by
        obtain ⟨h1, h2, e', he', h3⟩ := h.entries y hy
        exact ⟨h1, h2, e', List.mem_cons_of_mem _ he', h3⟩⟩
    obtain hsame | ⟨b, hp, hb, hadd⟩ := waitHandBack_record (hk ▸ hc) e
    · obtain ⟨w, hw, hrej⟩ := ih (hsame.trans hk) hc
      exact ⟨w, hw, hweak hrej⟩
    · rw [hk] at hb hadd
      obtain ⟨w, hw, hrobots, hentries⟩ := ih hadd hc
      have hrej : Rejoins k l w := ⟨hrobots, hentries⟩
      refine ⟨rejoined e b :: w, by rw [List.foldl_cons, hw, List.append_assoc]; rfl, hrej.robots.cons_cons _, ?_⟩
      intro y hy
      obtain rfl | hy := List.mem_cons.mp hy
      · exact ⟨rfl, hb, e, List.mem_cons_self, hp, rfl, rfl⟩
      · exact (hweak hrej).entries y hy

/-- The hand-back of other robots' entries leaves a relay's record. -/
theorem waitHandBacks_relay {l : List Access} (hc : (getStack s i).state ≠ .active) (hr : getRelay s t = some r)
    (hl : ∀ e ∈ l, r.take.robot ≠ some e.robot) : getRelay (l.foldl (waitHandBack i) s) t = some r := by
  induction l generalizing s with
  | nil => exact hr
  | cons e l ih =>
    have hkeep : (getStack (waitHandBack i s e) i).state ≠ .active := by
      obtain h | ⟨b, -, -, h⟩ := waitHandBack_record hc e
      · rw [h]; exact hc
      · rw [h]; exact hc
    exact ih hkeep ((waitHandBack_relay hc hr fun _ => hl e List.mem_cons_self).trans hr)
      fun e' he' => hl e' (List.mem_cons_of_mem _ he')

/-- A taker whose bin rests on the stack joins again when its entry is handed back (R56). -/
theorem waitHandBacks_rejoins (hk : getStack s i = { k with waits := [] }) (hst : k.state = .suspect) (hs : k.Sound)
    (he : e ∈ k.waits) (hp : e.purpose = .take) (hr : getRelay s e.tag = some r) (hw : Waits r e)
    (hend : r.endPending = none) (hb : k.rests r.bin = true) :
    rejoined e r.bin ∈ (getStack (k.waits.foldl (waitHandBack i) s) i).waits := by
  have hc : k.state ≠ .active := by rw [hst]; decide
  obtain ⟨l1, l2, hsplit⟩ := List.append_of_mem he
  obtain ⟨-, hlen, hnodup⟩ := hs
  rw [hsplit] at hlen hnodup
  have hother : ∀ e' ∈ l1, e'.robot ≠ e.robot := fun e' he' heq => by
    rw [List.map_append, List.map_cons] at hnodup
    exact (List.disjoint_of_nodup_append hnodup) (List.mem_map_of_mem he') (heq ▸ List.mem_cons_self)
  rw [hsplit, List.foldl_append, List.foldl_cons]
  obtain ⟨w1, hw1, hrej⟩ := waitHandBacks_record l1 hk hc
  have hr1 : getRelay (l1.foldl (waitHandBack i) s) e.tag = some r :=
    waitHandBacks_relay (by rw [hk]; exact hc) hr fun e' he' heq =>
      hother e' he' (Option.some.inj (heq.symm.trans hw.1))
  generalize l1.foldl (waitHandBack i) s = s1 at hw1 hr1
  have hc1 : (getStack s1 i).state ≠ .active := by rw [hw1]; exact hc
  have hjoin : joinAccepted s1 i (rejoined e r.bin) = true := by
    unfold joinAccepted
    rw [hw1]
    have hnone : (w1.any fun y => y.robot == e.robot) = false := by
      refine List.any_eq_false.mpr fun y hy hyr => ?_
      obtain ⟨e', he', heq⟩ := List.mem_map.mp (hrej.robots.subset (List.mem_map_of_mem hy))
      exact hother e' he' (heq.trans (by simpa using hyr))
    have hshort : w1.length < 2 * k.capacity := by
      have := hrej.robots.length_le
      simp only [List.length_map, List.length_append, List.length_cons] at this hlen
      omega
    simp only [List.nil_append, rejoined, hnone, decide_eq_true hshort, hst, StackRec.rests] at hb ⊢
    simp [Purpose.isSet, hb]
  obtain ⟨st, hback⟩ := waitHandBack_waits hp hr1 hw hc1
  have hadd : getStack (waitHandBack i s1 e) i = { k with waits := w1 ++ [rejoined e r.bin] } := by
    rw [hback, if_pos (by rw [hend, hjoin]; rfl)]
    exact (getStack_joinWaits hjoin).trans (by rw [hw1]; rfl)
  obtain ⟨w2, hw2, -⟩ := waitHandBacks_record l2 hadd hc
  rw [hw2]
  simp

/-! ## The entry into SUSPECT -/

/-- The record of a stack that has entered SUSPECT, its lists handed back (R18). -/
def StackRec.suspected (k : StackRec) : StackRec :=
  { k with state := .suspect, pend := k.pend.filter fun e => !cancelled k e }

/-- The reservations that an entry cancels are none of a shuffle. -/
def SparesShuffles (s : State) (k : StackRec) : Prop :=
  ∀ b o d, PendEntry.bin b o d ∈ k.pend → ¬setDownPends k b → shufflingRelay s b = none

theorem StackRec.suspected_ne (k : StackRec) (st : StackState) (h : st ≠ .suspect := by decide) : k.suspected.state ≠ st :=
  h.symm

/-- A property of placements that the notice leaves is kept by the hand-back of reservations of no shuffle. -/
theorem suspectHandedBack_placing (h : Placing P) (hk : getStack s i = k) (hi : i < s.stackRecs.length)
    (hno : SparesShuffles s k) (c : Cause) (b : BinId)
    (hs : P (modStack i (fun k => { k with pend := k.pend.filter fun e => !cancelled k e }) (suspectNoted i c t x b s))) :
    P (suspectHandedBack i (suspectNoted i c t x b s)) := by
  unfold suspectHandedBack
  rw [getStack_suspectNoted hi, hk]
  refine handBacks_placing h (fun b' o d hb => ?_) i hs
  obtain ⟨hmem, hgone⟩ := List.mem_filter.mp hb
  have hrelays : shufflingRelay (modStack i (fun k => { k with pend := k.pend.filter fun e => !cancelled k e })
      (suspectNoted i c t x b s)) b' = shufflingRelay s b' := by
    unfold shufflingRelay
    rw [show (modStack i _ (suspectNoted i c t x b s)).relays = s.relays from notify_relays ..]
  rw [hrelays]
  exact hno b' o d hmem fun hset =>
    Bool.false_ne_true ((cancelled_bin_iff.mpr hset : cancelled k (.bin b' o d) = false).symm.trans hgone)

/-- The stack's record when its reservations have been handed back (R18 step 3). -/
theorem getStack_suspectHandedBack (hk : getStack s i = k) (hi : i < s.stackRecs.length) (hno : SparesShuffles s k)
    (c : Cause) (b : BinId) : getStack (suspectHandedBack i (suspectNoted i c t x b s)) i = k.suspected := by
  refine suspectHandedBack_placing (record_placing i (k.suspected_ne .active)) hk hi hno c b ?_
  rw [getStack_modStack_self _ (by rw [suspectNoted_length]; exact hi), getStack_suspectNoted hi, hk]
  rfl

/-- The stack's record after the entry: its takers have joined again (R18, R56). -/
theorem getStack_enterSuspect (hk : getStack s i = k) (hi : i < s.stackRecs.length) (hno : SparesShuffles s k)
    (c : Cause) (b : BinId) : ∃ w, getStack (enterSuspect i c t x b s) i = { k.suspected with waits := w } ∧
      Rejoins k k.waits w ∧
      (k.Sound → ∀ e ∈ k.waits, ∀ r, e.purpose = .take → getRelay s e.tag = some r → Waits r e →
        r.endPending = none → k.rests r.bin = true → rejoined e r.bin ∈ w) := by
  let v := suspectHandedBack i (suspectNoted i c t x b s)
  have hv : getStack v i = k.suspected := getStack_suspectHandedBack hk hi hno c b
  have hvi : i < v.stackRecs.length := lt_of_declared (hv ▸ k.suspected_ne .undeclared)
  let v1 := modStack i (fun k => { k with waits := [] }) v
  have hv1 : getStack v1 i = { k.suspected with waits := [] } := by rw [getStack_modStack_self _ hvi, hv]
  have hrejoined : suspectRejoined i v = k.waits.foldl (waitHandBack i) v1 := by
    unfold suspectRejoined; rw [hv]; rfl
  obtain ⟨w, hw, hrobots, hentries⟩ := waitHandBacks_record k.waits hv1 (k.suspected_ne .active)
  refine ⟨w, ?_, ⟨hrobots, hentries⟩, fun hs e he r hp hr hwaits hend hb => ?_⟩
  · rw [enterSuspect_eq, hrejoined]
    exact retryPlacement_placing (record_placing i (k := { k.suspected with waits := w }) (k.suspected_ne .active)) hw
  · have hr0 : RelayStands TakeState.sendable r (suspectNoted i c t x b s) :=
      (relayStands_of hr).congr ((getRelay_notify ..).trans rfl)
    obtain ⟨q, hq, hcore, htake⟩ : RelayStands TakeState.sendable r v :=
      suspectHandedBack_placing (relayStands_placing r) hk hi hno c b hr0
    have htake : q.take = r.take := htake fun h => by
      obtain h1 | h1 := h <;> obtain h2 | h2 := hwaits.2 <;> cases h1.symm.trans h2
    have hmem := waitHandBacks_rejoins (k := { k.suspected with waits := k.waits }) hv1 rfl
      (hs.shrink rfl (Nat.add_le_add_left (List.length_filter_le ..) _) (.refl _)) he hp
      ((getRelay_tag hr : r.tag = e.tag) ▸ hq) ⟨htake ▸ hwaits.1, htake ▸ hwaits.2⟩
      ((Relay.core_endPending hcore).trans hend) (by rw [Relay.core_bin hcore]; exact hb)
    rw [show getStack (List.foldl _ v1 _) i = _ from hw, Relay.core_bin hcore] at hmem
    exact hmem

theorem modStack_id {f : StackRec → StackRec} (h : f (getStack s i) = getStack s i) : modStack i f s = s := by
  have hrecs : s.stackRecs.modify i f = s.stackRecs := by
    refine List.ext_getElem (by simp) fun j h1 h2 => ?_
    rw [List.getElem_modify]
    split
    · rename_i hij
      subst hij
      simpa [getStack, List.getElem?_eq_getElem h2] using h
    · rfl
  rw [modStack, hrecs]

/-- With nothing to cancel, nobody waiting there and no relay waiting for a placement, the entry is its notice (R18). -/
theorem enterSuspect_idle (hi : i < s.stackRecs.length)
    (hp : ∀ b o d, PendEntry.bin b o d ∈ (getStack s i).pend → setDownPends (getStack s i) b)
    (hw : (getStack s i).waits = []) (hplace : s.placeWait = []) (c : Cause) (b : BinId) :
    enterSuspect i c t x b s = suspectNoted i c t x b s := by
  let u := suspectNoted i c t x b s
  have hu : getStack u i = { getStack s i with state := .suspect } := getStack_suspectNoted hi c b
  have hkept : ∀ e ∈ (getStack u i).pend, cancelled (getStack u i) e = false := by
    rw [hu]
    exact fun e he => cancelled_iff.mpr fun b o d hb => hp b o d (hb ▸ he)
  have hgone : (getStack u i).pend.filter (cancelled (getStack u i)) = [] :=
    List.filter_eq_nil_iff.mpr fun e he => by simp [hkept e he]
  have hstay : (getStack u i).pend.filter (fun e => !cancelled (getStack u i) e) = (getStack u i).pend :=
    List.filter_eq_self.mpr fun e he => by simp [hkept e he]
  have hback : suspectHandedBack i u = u := by
    unfold suspectHandedBack
    rw [hgone, List.foldl_nil]
    exact modStack_id (congrArg (fun l => { getStack u i with pend := l }) hstay)
  have hwaits : (getStack u i).waits = [] := by rw [hu]; exact hw
  have hrejoin : suspectRejoined i u = u := by
    unfold suspectRejoined
    rw [hwaits, List.foldl_nil]
    exact modStack_id (congrArg (fun l => { getStack u i with waits := l }) hwaits.symm)
  have hnoted : u.placeWait = [] := (notify_placeWait ..).trans hplace
  rw [enterSuspect_eq, show suspectHandedBack i (suspectNoted i c t x b s) = u from hback, hrejoin]
  unfold retryPlacement
  rw [hnoted]
  rfl

end Sys2Proof.Machine

namespace Sys2Proof

open Machine

/-- Settles O21: the record of the stack is followed through the entry's steps; it is not ACTIVE, so no placement picks it and
no grant follows there. -/
theorem suspectOnlyFromActive : Obligations.SuspectOnlyFromActive := by
  refine ⟨fun s i robot c tag bin h => suspectCause_suspect h c tag robot bin,
    fun s i robot c tag bin h => if_neg h, fun s i sensed recorded robot tag bin h => ?_,
    fun s t i robot c tag bin k hk ha ht hno => ?_, fun s i robot c tag bin ha hp hw hplace => ?_⟩
  · unfold levelCheck
    split
    · exact iff_of_false (by rw [h]; decide) (not_not_intro ‹_›)
    · exact iff_of_true (suspectCause_suspect h ..) ‹_›
  · have hi : i < s.stackRecs.length := lt_of_declared (by rw [← hk, ha]; decide)
    obtain ⟨w, hrec, hrej, hback⟩ := getStack_enterSuspect (t := tag) (x := robot) hk.symm hi hno c bin
    have ht : t = enterSuspect i c tag robot bin s := ht.trans (if_pos (by rw [← hk]; exact ha))
    rw [ht, hrec]
    refine ⟨fun e => ?_, List.filter_sublist, rfl, rfl, hrej.entries, fun hs e he r hp hr hx hst hend hb => ?_⟩
    · rw [← cancelled_iff]
      exact List.mem_filter.trans (and_congr_right fun _ => by simp)
    · have hmem := hback hs e he r hp hr ⟨hx, hst⟩ hend hb
      unfold rejoined at hmem
      rw [← hp] at hmem
      exact hmem
  · rw [suspectCause, if_pos ha]
    exact enterSuspect_idle (lt_of_declared (by rw [ha]; decide)) hp hw hplace c bin

end Sys2Proof
